-- ==== Sys2Proof/Word.lean ====
section
/-! DEFINITION. The word types of the engine: the byte, the 32-bit clock value (spec/00_scope.md R11). -/

namespace Sys2Proof

/-- A byte: 8 bits, bit 7 the most significant (R11). -/
abbrev Byte := BitVec 8

/-- `u32`: an unsigned 32-bit value, the type of NOW's answers and of `timer_start` (R11, R54). -/
abbrev U32 := BitVec 32

end Sys2Proof
end

