-- ==== Sys2Proof/Config.lean ====
section
/-! DEFINITION. The constants the source fixes (spec/00_scope.md R8), the defaults of the open parameters (R10),
and the free values: constants without a body, which no proof can evaluate (log entries 7, 9, 22, 29). -/

namespace Sys2Proof

/-- How an automatic reply gets its address and command (R10 `REPLY_HEADER`, D12): the default echo of the received
frame's, or whatever the platform chose (`Config.platformReplyHeader`). -/
inductive ReplyHeader where
  | echo
  | platform
deriving DecidableEq, Repr

namespace Config

/-- `PREAMBLE`, the frame-start marker byte (R8, R83). -/
def preamble : Byte := 0xC0

/-- `ESC`, the escape byte (R8, R83). -/
def esc : Byte := 0xDB

/-- `MARK_A`, the escaped-preamble marker (R8, R83). -/
def markA : Byte := 0xDC

/-- `MARK_B`, the escaped-escape marker (R8, R83). -/
def markB : Byte := 0xDD

/-- `POLY`, the CRC-8 polynomial, MSB-first (R8). -/
def poly : Byte := 0x31

/-- `CAPACITY`, the working-buffer size, fixed at the reference sizing (R8, D32). -/
abbrev capacity : Nat := 256

/-- `HEADER_SIZE`: address, command, size (R8). -/
abbrev headerSize : Nat := 3

/-- `CRC_SIZE`: the checksum byte (R8). -/
abbrev crcSize : Nat := 1

/-- `MAX_PAYLOAD` = `CAPACITY - HEADER_SIZE - CRC_SIZE` = 252 (R8). -/
abbrev maxPayload : Nat := capacity - headerSize - crcSize

/-- `MAX_U32` = 2^32 - 1 (R8; the value is the spec's general knowledge G4, log entry 20). -/
abbrev maxU32 : Nat := 0xFFFFFFFF

/-- The default of `INTAKE_CAPACITY` (R10, D7). -/
abbrev defaultIntakeCapacity : Nat := 256

/-- The default of `TX_CAPACITY` (R10, D8). -/
abbrev defaultTxCapacity : Nat := 513

/-- FREE VALUE (log entry 7): what NOW answers when `State.nows` lists nothing more; applied to `State.freeCount`. -/
opaque freeNow : Nat → U32

/-- FREE VALUE (log entry 7): how many bytes READ delivers when `State.counts` lists nothing more, before the bound of
R196 is applied to it. -/
opaque freeReadCount : Nat → Nat

/-- FREE VALUE (log entry 7): what HANDLE answers when `State.replies` lists nothing more: no reply, or reply bytes. -/
opaque freeReply : Nat → Option (List Byte)

/-- FREE VALUE (log entry 7): what WRITE answers when `State.writtens` lists nothing more. -/
opaque freeWritten : Nat → Nat

/-- FREE VALUE (log entry 9): `tx_len` after a CALL that returned `OVERFLOW` (R185), before its bound is applied. -/
opaque freeTxLen : Nat → Nat

/-- FREE VALUE (log entry 9): the bytes of `tx` after a CALL that returned `OVERFLOW` (R185), by counter and index. -/
opaque freeTxByte : Nat → Nat → Byte

/-- FREE VALUE (log entry 29): the checksum CRC.GEN hands over when its payload is shorter than `size`, a case for which
R114 states no result; applied to `State.freeCount`. -/
opaque freeCrc : Nat → Byte

/-- FREE VALUE (log entry 22): the platform's own `REPLY_HEADER`, a total function of
`(frame_address, frame_command, own_address)` to `(address, command)` (R10). -/
opaque platformReplyHeader : Byte → Byte → Byte → Byte × Byte

end Config
end Sys2Proof
end

