-- ==== Sys2Proof/Syntax.lean ====
section
/-! DEFINITION. The operations of the engine as syntax: one constructor of `Instr` for each row of
spec/opcode_table.json, with the operand types they need, and the words a decoder reads them from. -/

namespace Sys2Proof

/-- The six error codes (spec/30_encoding.md R92). -/
inductive ErrorCode where
  | none
  | timeout
  | crc
  | invalidData
  | overflow
  | busy
deriving DecidableEq, Repr

/-- The three values of the state register (spec/10_state.md R21). -/
inductive RxState where
  | pending
  | headerReceiving
  | completeReceiving
deriving DecidableEq, Repr

/-- A handler's answer `(reply_data?, reply_size)` (spec/45_system_ops.md R199). -/
structure Reply where
  data : Option (List Byte)
  size : Nat
deriving DecidableEq, Repr

/-- Format FRM, the decoded frame `address(1) | command(1) | size(1) | payload(size) | crc8(1)`
(spec/30_encoding.md R81). -/
structure Frame where
  address : Byte
  command : Byte
  size : Byte
  payload : List Byte
  crc : Byte
deriving DecidableEq, Repr

/-- One constructor per row of spec/opcode_table.json, in the table's order (spec/30_encoding.md R96, R85, R80, R92,
R94). -/
inductive Instr where
  -- public operations
  | init
  | poll
  | call (address command : Byte) (size : Nat) (data : List Byte)
  -- CRC-8 engine
  | crcBuildTable (polynomial : Byte)
  | crcFold (data : List Byte) (seed : Byte)
  | crcSeed
  | crcGen (address command size : Byte) (payload : List Byte)
  | crcCheck (frame : List Byte)
  -- byte-stuffing codec
  | stuff (plaintext : List Byte)
  | destuff (stuffed : List Byte) (maxOut : Nat)
  -- timeout supervisor
  | tmrArm (now : U32)
  | tmrCheck (now : U32)
  | tmrDisarm
  -- frame assembler
  | rxPending (now : U32)
  | rxReadDestuff
  | rxHeader
  | rxComplete
  | rxDispatch
  | rxFilter (frameAddress : Byte)
  | rxReply (reply : Reply)
  | rxAbort (code : ErrorCode)
  -- platform callbacks
  | read (max : Nat)
  | write (bytes : List Byte)
  | now
  | handle (cmd : Byte) (data : List Byte) (size : Nat)
  -- wire symbols
  | preamble
  | escPreamble
  | escEsc
  | escIllegal (m : Byte)
  | literal (b : Byte)
  -- frames
  | frm (f : Frame)
  | enc (f : Frame)
  -- error codes
  | codeNone
  | codeTimeout
  | codeCrc
  | codeInvalidData
  | codeOverflow
  | codeBusy
  -- state codes
  | statePending
  | stateHeaderReceiving
  | stateCompleteReceiving
deriving DecidableEq, Repr

/-- A word as the engine meets it, tagged with the encoding space it belongs to (log entry 2): the spec encodes five
kinds of thing, and the same byte stands for different things in different spaces. -/
inductive PortWord where
  /-- The command port: `op_sel` with CALL's operands, which INIT and POLL do not carry (R93). -/
  | op (sel : BitVec 2) (address command : Byte) (size : Nat) (data : List Byte)
  /-- One symbol of the stuffed stream, first wire byte first (R85). -/
  | wire (bytes : List Byte)
  /-- A decoded frame, format FRM (R81). -/
  | frame (bytes : List Byte)
  /-- An encoded stream, format ENC (R80). -/
  | encoded (bytes : List Byte)
  /-- An error code as the result port shows it (R92). -/
  | result (code : Byte)
  /-- A state code (R94). -/
  | stateCode (code : BitVec 2)
deriving DecidableEq, Repr

/-- Why a word decodes to nothing: each name is an encoding the spec calls reserved, illegal or incomplete. -/
inductive DecodeError where
  /-- `op_sel` = `11` (R93). -/
  | reservedSelect
  /-- State code `11`, never produced (R94). -/
  | reservedState
  /-- A result byte that is none of the six codes (R92). -/
  | unknownCode
  /-- An escape byte with no marker after it (R85). -/
  | incompleteEscape
  /-- Bytes that are not one symbol (R85). -/
  | notOneSymbol
  /-- A sequence whose length is not `3 + size + 1` (R81). -/
  | badFrameLength
  /-- An encoded stream that does not begin with the preamble (R80). -/
  | noPreamble
  /-- A raw preamble after the first byte (R85). -/
  | strayPreamble
  /-- A tail that DESTUFF rejects (R128). -/
  | badStuffing
deriving DecidableEq, Repr

end Sys2Proof
end

