-- ==== Sys2Proof/Machine/Codec.lean ====
section
/-! DEFINITION. The byte-stuffing codec and the frame layouts, free of any state (spec/41_stuffing.md,
spec/30_encoding.md R80 to R85). -/

namespace Sys2Proof.Machine

/-- Why DESTUFF fails (spec/41_stuffing.md R128). -/
inductive DestuffFailure where
  | incomplete
  | badMarker
  | capacity
deriving DecidableEq, Repr

/-- DESTUFF's two-case result: never a bare count (R129). -/
inductive DestuffResult where
  | ok (decoded : List Byte)
  | fail (kind : DestuffFailure)
deriving DecidableEq, Repr

/-- The stuffed image of a byte that is not the first handed to STUFF (spec/30_encoding.md R84). -/
def stuffByte (b : Byte) : List Byte :=
  if b = Config.preamble then [Config.esc, Config.markA]
  else if b = Config.esc then [Config.esc, Config.markB]
  else [b]

/-- The stuffed image of the bytes after the first. -/
def stuffTail : List Byte → List Byte
  | [] => []
  | b :: bs => stuffByte b ++ stuffTail bs

/-- STUFF: byte 0 verbatim, every later byte through R84 (R126); the empty sequence gives the empty sequence (D26). -/
def stuffBytes : List Byte → List Byte
  | [] => []
  | b :: bs => b :: stuffTail bs

/-- The byte an escape pair stands for (R127). -/
def unescape (marker : Byte) : Option Byte :=
  if marker = Config.markA then some Config.preamble
  else if marker = Config.markB then some Config.esc
  else none

/-- Put a decoded byte in front of a result. -/
def DestuffResult.cons (v : Byte) : DestuffResult → DestuffResult
  | .ok decoded => .ok (v :: decoded)
  | .fail kind => .fail kind

/-- DESTUFF: reverse the mapping, left to right, within `maxOut` bytes of output. The first failing symbol is the one
reported, and within a symbol the marker is tested before the capacity (R127, R128, D27). -/
def destuffBytes : List Byte → Nat → DestuffResult
  | [], _ => .ok []
  | [b], maxOut =>
    if b = Config.esc then .fail .incomplete
    else match maxOut with
      | 0 => .fail .capacity
      | _ + 1 => .ok [b]
  | b :: m :: rest, maxOut =>
    if b = Config.esc then
      match unescape m with
      | none => .fail .badMarker
      | some v =>
        match maxOut with
        | 0 => .fail .capacity
        | k + 1 => .cons v (destuffBytes rest k)
    else match maxOut with
      | 0 => .fail .capacity
      | k + 1 => .cons b (destuffBytes (m :: rest) k)

/-- The bytes of a decoded frame in field order (R81, spec/20_memory.md R52). -/
def frameBytes (f : Frame) : List Byte := f.address :: f.command :: f.size :: (f.payload ++ [f.crc])

/-- The encoded stream of a frame: the preamble raw, then the stuffed image of FRM (R80, R82, R130). -/
def encodedBytes (f : Frame) : List Byte := stuffBytes (Config.preamble :: frameBytes f)

/-- Read a decoded frame back from its bytes: the length must be `3 + size + 1` (R81, R86). -/
def parseFrame : List Byte → Option Frame
  | address :: command :: size :: rest =>
    if rest.length = size.toNat + 1 then
      some { address, command, size, payload := rest.take size.toNat, crc := rest.getLastD 0 }
    else none
  | _ => none

/-- The code as the result port shows it: 8-bit two's complement (R92, D3). -/
def codeByte : ErrorCode → Byte
  | .none => 0x00
  | .timeout => 0xFF
  | .crc => 0xFE
  | .invalidData => 0xFD
  | .overflow => 0xFC
  | .busy => 0xFB

/-- The two-bit code of the state register (R94). -/
def stateCodeOf : RxState → BitVec 2
  | .pending => 0
  | .headerReceiving => 1
  | .completeReceiving => 2

end Sys2Proof.Machine
end

