-- ==== Sys2Proof/Decode.lean ====
section
/-! DEFINITION. Decoding of port words, total and rejecting by name, the encoder, and the words of
spec/opcode_table.json as the host of this row numbers them (log entry 2). -/

namespace Sys2Proof

open Machine

/-- `op_sel`: `00` INIT, `01` POLL, `10` CALL, `11` reserved (spec/30_encoding.md R93). -/
def decodeOp (sel : BitVec 2) (address command : Byte) (size : Nat) (data : List Byte) : Except DecodeError Instr :=
  if sel = 0 then .ok .init
  else if sel = 1 then .ok .poll
  else if sel = 2 then .ok (.call address command size data)
  else .error .reservedSelect

/-- One symbol of the stuffed stream (R85). -/
def decodeWire : List Byte → Except DecodeError Instr
  | [b] =>
    if b = Config.preamble then .ok .preamble
    else if b = Config.esc then .error .incompleteEscape
    else .ok (.literal b)
  | [e, m] =>
    if e = Config.esc then
      if m = Config.markA then .ok .escPreamble
      else if m = Config.markB then .ok .escEsc
      else .ok (.escIllegal m)
    else .error .notOneSymbol
  | _ => .error .notOneSymbol

/-- A decoded frame, format FRM (R81). -/
def decodeFrame (bytes : List Byte) : Except DecodeError Instr :=
  match parseFrame bytes with
  | some f => .ok (.frm f)
  | none => .error .badFrameLength

/-- An encoded stream, format ENC: the preamble, then the stuffed image of FRM (R80, R85). -/
def decodeEncoded : List Byte → Except DecodeError Instr
  | [] => .error .noPreamble
  | b :: tail =>
    if b = Config.preamble then
      if Config.preamble ∈ tail then .error .strayPreamble
      else match destuffBytes tail Config.capacity with
        | .fail _ => .error .badStuffing
        | .ok decoded =>
          match parseFrame decoded with
          | some f => .ok (.enc f)
          | none => .error .badFrameLength
    else .error .noPreamble

/-- An error code on the result port (R92). -/
def decodeResult (code : Byte) : Except DecodeError Instr :=
  if code = codeByte .none then .ok .codeNone
  else if code = codeByte .timeout then .ok .codeTimeout
  else if code = codeByte .crc then .ok .codeCrc
  else if code = codeByte .invalidData then .ok .codeInvalidData
  else if code = codeByte .overflow then .ok .codeOverflow
  else if code = codeByte .busy then .ok .codeBusy
  else .error .unknownCode

/-- A state code (R94). -/
def decodeStateCode (code : BitVec 2) : Except DecodeError Instr :=
  if code = stateCodeOf .pending then .ok .statePending
  else if code = stateCodeOf .headerReceiving then .ok .stateHeaderReceiving
  else if code = stateCodeOf .completeReceiving then .ok .stateCompleteReceiving
  else .error .reservedState

/-- The decoder: each encoding space by its own table. -/
def decode : PortWord → Except DecodeError Instr
  | .op sel address command size data => decodeOp sel address command size data
  | .wire bytes => decodeWire bytes
  | .frame bytes => decodeFrame bytes
  | .encoded bytes => decodeEncoded bytes
  | .result code => decodeResult code
  | .stateCode code => decodeStateCode code

/-- The encoder: the word of an operation, where the table gives the row an encoding; the internal operations and the
callbacks have none (spec/opcode_table.json, "No binary encoding"). -/
def encode : Instr → Option PortWord
  | .init => some (.op 0 0 0 0 [])
  | .poll => some (.op 1 0 0 0 [])
  | .call address command size data => some (.op 2 address command size data)
  | .crcBuildTable _ => none
  | .crcFold _ _ => none
  | .crcSeed => none
  | .crcGen _ _ _ _ => none
  | .crcCheck _ => none
  | .stuff _ => none
  | .destuff _ _ => none
  | .tmrArm _ => none
  | .tmrCheck _ => none
  | .tmrDisarm => none
  | .rxPending _ => none
  | .rxReadDestuff => none
  | .rxHeader => none
  | .rxComplete => none
  | .rxDispatch => none
  | .rxFilter _ => none
  | .rxReply _ => none
  | .rxAbort _ => none
  | .read _ => none
  | .write _ => none
  | .now => none
  | .handle _ _ _ => none
  | .preamble => some (.wire [Config.preamble])
  | .escPreamble => some (.wire [Config.esc, Config.markA])
  | .escEsc => some (.wire [Config.esc, Config.markB])
  | .escIllegal m => some (.wire [Config.esc, m])
  | .literal b => some (.wire [b])
  | .frm f => some (.frame (frameBytes f))
  | .enc f => some (.encoded (encodedBytes f))
  | .codeNone => some (.result (codeByte .none))
  | .codeTimeout => some (.result (codeByte .timeout))
  | .codeCrc => some (.result (codeByte .crc))
  | .codeInvalidData => some (.result (codeByte .invalidData))
  | .codeOverflow => some (.result (codeByte .overflow))
  | .codeBusy => some (.result (codeByte .busy))
  | .statePending => some (.stateCode (stateCodeOf .pending))
  | .stateHeaderReceiving => some (.stateCode (stateCodeOf .headerReceiving))
  | .stateCompleteReceiving => some (.stateCode (stateCodeOf .completeReceiving))

/-- The `n` bytes of a number, the least significant first. -/
def bytesOf : Nat → Nat → List Byte
  | 0, _ => []
  | n + 1, w => BitVec.ofNat 8 w :: bytesOf n (w / 256)

/-- The port word that stands for `nbits` bits of the number `w` of spec/opcode_table.json. The number does not say
which encoding space it is of, so a value that several rows share goes to the first of: the command port (values 0 to
3), the result port (251 to 255), a wire symbol. A 16-bit number is one 16-bit symbol, its high byte first on the wire
("0xDB first on the wire"). Longer numbers are byte sequences, the first byte in bits 7..0: an encoded stream if it
begins with the preamble, a decoded frame otherwise (log entry 2). -/
def tableWord (nbits w : Nat) : Option PortWord :=
  if nbits = 8 then
    if w < 4 then some (.op (BitVec.ofNat 2 w) 0 0 0 [])
    else if 251 ≤ w ∧ w < 256 then some (.result (BitVec.ofNat 8 w))
    else if w < 256 then some (.wire [BitVec.ofNat 8 w])
    else none
  else if nbits = 16 then
    if w < 65536 then some (.wire [BitVec.ofNat 8 (w / 256), BitVec.ofNat 8 w]) else none
  else if 32 ≤ nbits ∧ nbits % 8 = 0 then
    if w % 256 = Config.preamble.toNat then some (.encoded (bytesOf (nbits / 8) w))
    else some (.frame (bytesOf (nbits / 8) w))
  else none

/-- The operation this decoder reads from the `nbits` bits `w`, numbered as spec/opcode_table.json numbers them. -/
def decodeTableWord (nbits w : Nat) : Option Instr :=
  match tableWord nbits w with
  | none => none
  | some word =>
    match decode word with
    | .ok i => some i
    | .error _ => none

end Sys2Proof
end

