-- ==== Sys2Proof/Machine/CrcTable.lean ====
section
/-! DEFINITION. The arithmetic of the CRC-8 engine, free of any state (spec/40_crc8.md R111 to R115). -/

namespace Sys2Proof.Machine

/-- One step of the MSB-first shift register: shift left, and add the polynomial if a 1 fell out (R111). -/
def crcShift (polynomial c : Byte) : Byte :=
  if c.msb then (c <<< 1) ^^^ polynomial else c <<< 1

/-- `n` steps of `crcShift`. -/
def crcShifts (polynomial : Byte) : Nat → Byte → Byte
  | 0, c => c
  | n + 1, c => crcShifts polynomial n (crcShift polynomial c)

/-- `crc_table[i]` for a polynomial: eight shift steps from `i` (R111). -/
def tableEntry (polynomial i : Byte) : Byte := crcShifts polynomial 8 i

/-- CRC.BUILD_TABLE: the 256-entry lookup of a polynomial (R111). -/
def buildTable (polynomial : Byte) : Vector Byte 256 :=
  ⟨⟨(List.range 256).map fun i => tableEntry polynomial (BitVec.ofNat 8 i)⟩, by simp⟩

/-- CRC.FOLD over a given table: `c <- crc_table[c XOR data[k]]`, from the seed (R112). -/
def fold (table : Vector Byte 256) : List Byte → Byte → Byte
  | [], c => c
  | b :: bs, c => fold table bs table[(c ^^^ b).toNat]

/-- CRC.SEED over a given table: `fold([PREAMBLE], 0)` (R113). -/
def seed (table : Vector Byte 256) : Byte := fold table [Config.preamble] 0

/-- CRC.GEN over a given table: the checksum of `[address, command, size] ++ payload` (R114). -/
def gen (table : Vector Byte 256) (address command size : Byte) (payload : List Byte) : Byte :=
  fold table (address :: command :: size :: payload) (seed table)

/-- CRC.CHECK over a given table: a frame with its checksum must fold to 0 (R115). -/
def check (table : Vector Byte 256) (frame : List Byte) : Bool :=
  fold table frame (seed table) == 0

/-- The table this hardware builds (R117): `POLY` = `0x31` and no other (R121). -/
def crcTable31 : Vector Byte 256 := buildTable Config.poly

end Sys2Proof.Machine
end

