-- ==== Sys2Proof/Machine/State.lean ====
section
/-! DEFINITION. The state of one protocol context (spec/10_state.md), its environment as plain data, the reasons a
step can stop, and the state after reset. -/

namespace Sys2Proof.Machine

/-- A private byte store: (index, byte) cells, indices strictly rising; an index that is not listed holds no value
(spec/20_memory.md R50, spec/10_state.md R27, log entry 6). -/
abbrev Memory := List Host.Cell

/-- The three byte buffers (spec/20_memory.md R50). -/
inductive Store where
  | intake
  | work
  | tx
deriving DecidableEq, Repr

/-- The model stops with a fault. -/
inductive Fault where
  /-- Raised by every read of a buffer at or beyond its fill length: such a byte is unspecified, and "reading one is a
  model fault" (spec/10_state.md R27). Safe: no rule reads one, and the hardware would go on. -/
  | unspecifiedByte (store : Store) (index : Nat)
deriving DecidableEq, Repr

/-- The model refuses a move. -/
inductive Refusal where
  /-- Raised by no arm of this model: an instruction without a meaning. Safe. -/
  | notModelled (mnemonic : String)
  /-- Raised by POLL and CALL, and by the wire symbols and ENC, which POLL, on a context whose first INIT has not
  returned: "refused" (spec/70_reset_and_hazards.md R251; U1). Safe. -/
  | beforeInit
  /-- Raised by READ when the platform answers with more than `max` bytes: "a contract violation: the model refuses
  it" (spec/45_system_ops.md R196). Safe. -/
  | readOverrun
  /-- Raised by CALL, and by RX.REPLY and POLL through the nested CALL, when `data` is shorter than `size`, before any
  other test: "the model refuses the invocation" (spec/44_transmit.md R191; U10). Safe. -/
  | shortData
  /-- Raised by the step on the reserved select `11`, "refused: the block does nothing and returns nothing"
  (spec/30_encoding.md R93, R90; spec/93_implementation_defined.md U15: `refuse`), on the state code `11`, which "is never
  produced" (R94), and on a result byte that is none of the six codes (R92). Safe. -/
  | undecodable (e : DecodeError)
deriving DecidableEq, Repr

/-- What can be observed from outside, in order (spec/00_scope.md R19). -/
inductive Event where
  | now (value : U32)
  | read (max : Nat) (bytes : List Byte)
  | write (bytes : List Byte) (written : Nat)
  | handle (cmd : Byte) (data : List Byte) (size : Nat) (reply : Reply)
  | returned (code : ErrorCode)
deriving DecidableEq, Repr

/-- What the last operation handed to its invoker (the MODEL's own, log entry 10); an error code is the byte
`codeByte` of it on the result port (spec/30_encoding.md R92). -/
inductive Output where
  | nothing
  | code (e : ErrorCode)
  | byte (b : Byte)
  | bytes (bs : List Byte)
  | valid (b : Bool)
  | destuffed (r : DestuffResult)
  | expired (b : Bool)
  | progress (b : Bool)
  | accepted (b : Bool)
  | sample (v : U32)
  | count (n : Nat)
  | reply (r : Reply)
deriving DecidableEq, Repr

/-- One protocol context (spec/10_state.md R20, R31), the parameters of spec/00_scope.md R10, and the model's own
fields: the environment's future answers, the host's pending words and the observables. -/
structure State where
  /-- The first INIT has returned (spec/70_reset_and_hazards.md R251; the MODEL's own). -/
  initialised : Bool
  /-- `state` (R21). -/
  state : RxState
  /-- `need`, the source's `bytes_needed` (R22). -/
  need : BitVec 8
  /-- `timer_start`; 0 is the inactive mark (R24). -/
  timerStart : U32
  /-- `intake` (R25). -/
  intake : Memory
  /-- `intake_len` (R25). -/
  intakeLen : Nat
  /-- `work` (R26). -/
  work : Memory
  /-- `work_len` (R26). -/
  workLen : Nat
  /-- `tx` (R28). -/
  tx : Memory
  /-- `tx_len` (R28). -/
  txLen : Nat
  /-- `crc_table` (R29). -/
  crcTable : Vector Byte 256
  /-- `own_address` (R31). -/
  ownAddress : Byte
  /-- `timeout_ms` (R31). -/
  timeoutMs : U32
  /-- `INTAKE_CAPACITY` (R10). -/
  intakeCapacity : Nat
  /-- `TX_CAPACITY` (R10). -/
  txCapacity : Nat
  /-- `REPLY_HEADER` (R10). -/
  replyHeader : ReplyHeader
  /-- The bytes waiting in the transport, oldest first (spec/20_memory.md R51; environment). -/
  rx : List Byte
  /-- READ's future answers `n` (spec/45_system_ops.md R196; environment). -/
  counts : List Nat
  /-- NOW's future answers (R198; environment). -/
  nows : List U32
  /-- HANDLE's future answers (R199; environment). -/
  replies : List Reply
  /-- WRITE's future answers (R197; environment). -/
  writtens : List Nat
  /-- How many free values have been taken (log entry 17). -/
  freeCount : Nat
  /-- The host's pending words (log entry 1). -/
  port : List PortWord
  /-- What the last operation handed to its invoker (log entry 10). -/
  out : Output
  /-- The observable events so far, oldest first (R19, log entry 10). -/
  trace : List Event
deriving DecidableEq, Repr

/-- The machine right after reset: INIT has run on a fresh context (spec/10_state.md R36,
spec/70_reset_and_hazards.md R250). Configuration, environment and observables are as log entries 3, 4, 5, 7, 10
say. -/
def State.reset : State where
  initialised := true
  state := .pending
  need := 0
  timerStart := 0
  intake := []
  intakeLen := 0
  work := []
  workLen := 0
  tx := []
  txLen := 0
  crcTable := buildTable Config.poly
  ownAddress := 0
  timeoutMs := 0
  intakeCapacity := Config.defaultIntakeCapacity
  txCapacity := Config.defaultTxCapacity
  replyHeader := .echo
  rx := []
  counts := []
  nows := []
  replies := []
  writtens := []
  freeCount := 0
  port := []
  out := .nothing
  trace := []

end Sys2Proof.Machine
end

