-- ==== Sys2Proof/Machine/Flags.lean ====
section
/-! DEFINITION. The three predicates that act as flags (spec/10_state.md R33): no storage of their own, each a pure
function of registers. -/

namespace Sys2Proof.Machine

/-- `BUSY`: a frame is mid-receive (R33, spec/44_transmit.md R182). -/
def busy (s : State) : Bool := s.state != .pending

/-- `TIMER_ARMED`: the value 0 is the inactive mark, there is no armed bit (R33, spec/42_timeout.md R146). -/
def timerArmed (s : State) : Bool := s.timerStart != 0

/-- `ESC_HELD`: between operations, an escape byte is withheld (R33, R34). -/
def escHeld (s : State) : Bool := s.intakeLen == 1

end Sys2Proof.Machine
end

