-- ==== Sys2Proof/Machine/Ops.lean ====
section
/-! DEFINITION. The named operations over the byte stores and the registers, the results of internal operations, and
the abort to `Pending`, the engine's one recovery sequence (spec/00_scope.md R13, spec/60_exceptions.md R218). -/

namespace Sys2Proof.Machine

/-! ### Byte stores -/

/-- `MemRead(buf, i)` (R13): the byte at an index, if a value stands there. -/
def Memory.read : Memory → Nat → Option Byte
  | [], _ => none
  | (a, b) :: m, i => if i = a then some b else Memory.read m i

/-- `MemWrite(buf, i, v)` (R13), keeping the indices strictly rising. -/
def Memory.write : Memory → Nat → Byte → Memory
  | [], i, v => [(i, v)]
  | (a, b) :: m, i, v =>
    if i < a then (i, v) :: (a, b) :: m
    else if i = a then (i, v) :: m
    else (a, b) :: Memory.write m i v

/-- Write a sequence from an index upward. -/
def Memory.writeBytes : Memory → Nat → List Byte → Memory
  | m, _, [] => m
  | m, i, b :: bs => Memory.writeBytes (m.write i b) (i + 1) bs

/-- The `n` bytes from an index upward, if a value stands at each. -/
def Memory.slice (m : Memory) (i : Nat) : Nat → Option (List Byte)
  | 0 => some []
  | n + 1 =>
    match m.read i with
    | none => none
    | some b => (m.slice (i + 1) n).map (b :: ·)

/-- The store that holds a sequence from an index upward and nothing else. -/
def Memory.ofBytesFrom : Nat → List Byte → Memory
  | _, [] => []
  | i, b :: bs => (i, b) :: Memory.ofBytesFrom (i + 1) bs

/-- The store that holds a sequence from index 0 and nothing else. -/
def Memory.ofBytes (bs : List Byte) : Memory := Memory.ofBytesFrom 0 bs

/-- Every index of the store is at least a bound, and they rise strictly. -/
def Memory.wfFrom : Nat → Memory → Bool
  | _, [] => true
  | n, (a, _) :: m => decide (n ≤ a) && Memory.wfFrom (a + 1) m

/-- The canonical form: indices strictly rising. (An unlisted index reads as no value, so no entry can equal it.) -/
def Memory.wf (m : Memory) : Bool := Memory.wfFrom 0 m

/-- A buffer lists exactly the indices below its fill length. -/
def Memory.dense (m : Memory) (len : Nat) : Bool := decide (m.map Prod.fst = List.range len)

/-- `append(intake, s)` (R13): after the bytes already there. -/
def appendIntake (bs : List Byte) (s : State) : State :=
  { s with intake := s.intake.writeBytes s.intakeLen bs, intakeLen := s.intakeLen + bs.length }

/-- `append(work, s)` (R13). -/
def appendWork (bs : List Byte) (s : State) : State :=
  { s with work := s.work.writeBytes s.workLen bs, workLen := s.workLen + bs.length }

/-- `clear(intake)` (R13): the fill length becomes 0 and the bytes are unspecified (spec/10_state.md R27). -/
def clearIntake (s : State) : State := { s with intake := [], intakeLen := 0 }

/-- `clear(work)` (R13, R27). -/
def clearWork (s : State) : State := { s with work := [], workLen := 0 }

/-- `clear(tx)` (R13, R27). -/
def clearTx (s : State) : State := { s with tx := [], txLen := 0 }

/-- `tx[0 .. len) <- bytes; tx_len <- len` (spec/44_transmit.md R180). -/
def setTx (bs : List Byte) (s : State) : State := { s with tx := Memory.ofBytes bs, txLen := bs.length }

/-- The length of `tx` after a CALL that returned `OVERFLOW`: unspecified, at most the capacity (R185, R32). -/
def freeTxLength (s : State) : Nat := Config.freeTxLen s.freeCount % (s.txCapacity + 1)

/-- `tx` and `tx_len` unspecified, after a CALL that returned `OVERFLOW` (R185; free values, log entry 9). -/
def unspecifiedTx (s : State) : State :=
  { setTx ((List.range (freeTxLength s)).map (Config.freeTxByte s.freeCount)) s with freeCount := s.freeCount + 1 }

/-- What stays in `intake` after destuffing: the withheld escape byte, or nothing (spec/43_frame_assembler.md R158,
R159). -/
def keepIntake (hold : Bool) (s : State) : State :=
  if hold then { s with intake := [(0, Config.esc)], intakeLen := 1 } else clearIntake s

/-! ### Scalar registers -/

/-- `need <- n` (R13); 8 bits (spec/10_state.md R22). -/
def setNeed (n : Nat) (s : State) : State := { s with need := BitVec.ofNat 8 n }

/-- `timer_start <- 0` (spec/42_timeout.md R144). -/
def disarm (s : State) : State := { s with timerStart := 0 }

/-- `timer_start <- now` (spec/42_timeout.md R142). -/
def arm (now : U32) (s : State) : State := { s with timerStart := now }

/-- `state <- Pending; need <- 0; TMR.DISARM`: every return to `Pending` (spec/43_frame_assembler.md R162,
spec/60_exceptions.md R218). -/
def toPending (s : State) : State := disarm { s with state := .pending, need := 0 }

/-! ### The abort, and the return of a code -/

/-- The abort to `Pending`: `state`, `need`, `timer_start` and both receive buffers; nothing is saved, and `tx`, the
table, the configuration and the transport stay as they are (spec/60_exceptions.md R218). The code goes to POLL's
invoker beside it. -/
def abort (s : State) : State := clearWork (clearIntake (toPending s))

/-- `return E` to the host: the operation ends and hands the code to its invoker (R13, spec/00_scope.md R19). There is
no return instruction beside it (spec/60_exceptions.md R222). -/
def returnCode (e : ErrorCode) (s : State) : State :=
  { s with out := .code e, trace := s.trace ++ [.returned e] }

/-- An internal operation hands its result to its invoker (log entry 10). -/
def handOut (o : Output) (s : State) : State := { s with out := o }

/-! ### Results of internal operations -/

/-- What an internal operation answers: a result and the state after it, a fault, or a refusal. -/
abbrev Res (α : Type) := Host.Outcome (α × State) Fault Refusal

/-- Go on with an operation's result. -/
def andThen {α β : Type} (r : Res α) (k : α → State → Res β) : Res β :=
  match r with
  | .next (a, s) => k a s
  | .fault f => .fault f
  | .refused x => .refused x

/-- End an internal operation: its result is handed to the invoker. -/
def hand {α : Type} (r : Res α) (f : α → Output) : Host.Outcome State Fault Refusal :=
  match r with
  | .next (a, s) => .next (handOut (f a) s)
  | .fault x => .fault x
  | .refused x => .refused x

/-- End a public operation: its code is returned to the host, and it is refused before the first INIT (R251). -/
def publicReturn (s : State) (r : Res ErrorCode) : Host.Outcome State Fault Refusal :=
  if s.initialised then
    match r with
    | .next (e, t) => .next (returnCode e t)
    | .fault x => .fault x
    | .refused x => .refused x
  else .refused .beforeInit

/-! ### Fetch -/

/-- The host's next word, and the context without it (log entry 1). -/
def fetch (s : State) : Option (PortWord × State) :=
  match s.port with
  | [] => none
  | w :: rest => some (w, { s with port := rest })

/-- Put the word of `nbits` bits `w` where the step fetches its next one; a number that is no word changes nothing. -/
def pushTableWord (s : State) (word : Option PortWord) : State :=
  match word with
  | none => s
  | some p => { s with port := p :: s.port }

end Sys2Proof.Machine
end

