-- ==== Sys2Proof/Machine/Codes.lean ====
section
/-! DEFINITION. The six error codes as `return E`, the three state codes as `state <- S` (spec/00_scope.md R13,
spec/30_encoding.md R92, R94; log entries 14, 15). None of these rows looks at `initialised`: the spec names only POLL
and CALL as refused before the first INIT (spec/70_reset_and_hazards.md R251), and the rest is the model's choice (log
entry 3). -/

namespace Sys2Proof.Machine

/-- NONE: `return NONE` (R92). -/
def execCodeNone (s : State) : Host.Outcome State Fault Refusal := .next (returnCode .none s)

/-- TIMEOUT: `return TIMEOUT` (R92). -/
def execCodeTimeout (s : State) : Host.Outcome State Fault Refusal := .next (returnCode .timeout s)

/-- CRC: `return CRC` (R92). -/
def execCodeCrc (s : State) : Host.Outcome State Fault Refusal := .next (returnCode .crc s)

/-- INVALID_DATA: `return INVALID_DATA` (R92). -/
def execCodeInvalidData (s : State) : Host.Outcome State Fault Refusal := .next (returnCode .invalidData s)

/-- OVERFLOW: `return OVERFLOW` (R92). -/
def execCodeOverflow (s : State) : Host.Outcome State Fault Refusal := .next (returnCode .overflow s)

/-- BUSY: `return BUSY` (R92). -/
def execCodeBusy (s : State) : Host.Outcome State Fault Refusal := .next (returnCode .busy s)

/-- STATE.Pending: `state <- Pending`, with `need` at 0 as in every `Pending` state (spec/10_state.md R22, D4). -/
def execStatePending (s : State) : Host.Outcome State Fault Refusal :=
  .next (handOut .nothing { s with state := .pending, need := 0 })

/-- STATE.HeaderReceiving: `state <- HeaderReceiving` (R94). -/
def execStateHeaderReceiving (s : State) : Host.Outcome State Fault Refusal :=
  .next (handOut .nothing { s with state := .headerReceiving })

/-- STATE.CompleteReceiving: `state <- CompleteReceiving` (R94). -/
def execStateCompleteReceiving (s : State) : Host.Outcome State Fault Refusal :=
  .next (handOut .nothing { s with state := .completeReceiving })

end Sys2Proof.Machine
end

