-- ==== Sys2Proof/Machine/Operands.lean ====
section
/-! DEFINITION. The operand forms: the parts of a received frame, the first `size` bytes of a data operand, a handler's
reply, the header of an automatic reply (spec/30_encoding.md R86 to R88, spec/44_transmit.md R191). -/

namespace Sys2Proof.Machine

/-- The byte of `work` at an index below the fill length; any other is unspecified (spec/10_state.md R27). -/
def workByte (s : State) (i : Nat) : Option Byte :=
  if i < s.workLen then s.work.read i else none

/-- The bytes `work[i .. i+n)`, all below the fill length. -/
def workSlice (s : State) (i n : Nat) : Option (List Byte) :=
  if i + n ≤ s.workLen then s.work.slice i n else none

/-- The bytes of `intake` below its fill length, in arrival order (spec/20_memory.md R65). -/
def intakeBytes (s : State) : Option (List Byte) := s.intake.slice 0 s.intakeLen

/-- The decoded frame `work[0 .. 3 + size + 1)` with `size = work[2]`, by its fields (spec/20_memory.md R63,
spec/30_encoding.md R88). -/
def receivedFrame (s : State) : Option Frame :=
  match workByte s 2 with
  | none => none
  | some size => (workSlice s 0 (Config.headerSize + size.toNat + Config.crcSize)).bind parseFrame

/-- `data[0 .. size)`: bytes beyond `size` are ignored, and fewer than `size` break the interface
(spec/44_transmit.md R191). -/
def payloadOf (size : Nat) (data : List Byte) : Option (List Byte) :=
  if size ≤ data.length then some (data.take size) else none

/-- A reply exists when data is present and its size is above 0 (spec/43_frame_assembler.md R164, D13). -/
def nonEmptyReply (r : Reply) : Bool := r.data.isSome && decide (0 < r.size)

/-- The reply bytes, taken by value (R164, D30). -/
def replyData (r : Reply) : List Byte := r.data.getD []

/-- `REPLY_HEADER(frame_address, frame_command, own_address)`: the default echoes the received frame's
(spec/00_scope.md R10, D12). -/
def replyHeaderOf (h : ReplyHeader) (frameAddress frameCommand ownAddress : Byte) : Byte × Byte :=
  match h with
  | .echo => (frameAddress, frameCommand)
  | .platform => Config.platformReplyHeader frameAddress frameCommand ownAddress

/-- The frame CALL builds: `size[7:0]`, and the checksum of CRC.GEN (spec/44_transmit.md R183). -/
def buildFrame (table : Vector Byte 256) (address command : Byte) (payload : List Byte) : Frame :=
  let size := BitVec.ofNat 8 payload.length
  { address, command, size, payload, crc := gen table address command size payload }

end Sys2Proof.Machine
end

