-- ==== Sys2Proof/Machine/Crc.lean ====
section
/-! DEFINITION. The five operations of the CRC-8 engine (spec/40_crc8.md R110 to R121). -/

namespace Sys2Proof.Machine

/-- CRC.BUILD_TABLE(`polynomial`): all 256 entries of `crc_table` (R111). -/
def execCrcBuildTable (polynomial : Byte) (s : State) : Host.Outcome State Fault Refusal :=
  .next (handOut .nothing { s with crcTable := buildTable polynomial })

/-- CRC.FOLD(`data`, `seed`) (R112). -/
def execCrcFold (data : List Byte) (start : Byte) (s : State) : Host.Outcome State Fault Refusal :=
  .next (handOut (.byte (fold s.crcTable data start)) s)

/-- CRC.SEED (R113). -/
def execCrcSeed (s : State) : Host.Outcome State Fault Refusal :=
  .next (handOut (.byte (seed s.crcTable)) s)

/-- CRC.GEN(`address`, `command`, `size`, `payload`): over `payload[0 .. size)`, writing nothing (R114). With fewer than
`size` payload bytes the rule states no result: the operation runs and its result is a free value (log entry 29). -/
def crcGenAnswer (address command size : Byte) (payload : List Byte) (s : State) : Byte × State :=
  match payloadOf size.toNat payload with
  | some p => (gen s.crcTable address command size p, s)
  | none => (Config.freeCrc s.freeCount, { s with freeCount := s.freeCount + 1 })

/-- CRC.GEN as an operation of its own (R114). -/
def execCrcGen (address command size : Byte) (payload : List Byte) (s : State) :
    Host.Outcome State Fault Refusal :=
  hand (.next (crcGenAnswer address command size payload s)) .byte

/-- CRC.CHECK(`frame_bytes`) (R115). -/
def execCrcCheck (frame : List Byte) (s : State) : Host.Outcome State Fault Refusal :=
  .next (handOut (.valid (check s.crcTable frame)) s)

end Sys2Proof.Machine
end

