-- ==== Sys2Proof/Machine/Stuffing.lean ====
section
/-! DEFINITION. The two operations of the byte-stuffing codec (spec/41_stuffing.md R125 to R129). -/

namespace Sys2Proof.Machine

/-- STUFF(`plaintext`): total, no error of its own (R126). -/
def execStuff (plaintext : List Byte) (s : State) : Host.Outcome State Fault Refusal :=
  .next (handOut (.bytes (stuffBytes plaintext)) s)

/-- DESTUFF(`stuffed`, `max_out`): `Ok(decoded)` or `Fail(kind)` (R127, R128). -/
def execDestuff (stuffed : List Byte) (maxOut : Nat) (s : State) : Host.Outcome State Fault Refusal :=
  .next (handOut (.destuffed (destuffBytes stuffed maxOut)) s)

end Sys2Proof.Machine
end

