-- ==== Sys2Proof/Machine/System.lean ====
section
/-! DEFINITION. INIT, the reset (spec/45_system_ops.md R195, spec/70_reset_and_hazards.md R250 to R253). -/

namespace Sys2Proof.Machine

/-- The registers after INIT; the configuration and the transport stay as they are (R195, R252, R253). -/
def initCore (s : State) : State :=
  clearTx (clearWork (clearIntake (toPending { s with crcTable := buildTable Config.poly, initialised := true })))

/-- INIT: cannot fail, invokes no callback, returns no code (R195, R252). -/
def execInit (s : State) : Host.Outcome State Fault Refusal := .next (handOut .nothing (initCore s))

end Sys2Proof.Machine
end

