-- ==== Sys2Proof/Machine/Timer.lean ====
section
/-! DEFINITION. The timeout supervisor (spec/42_timeout.md R140 to R149). -/

namespace Sys2Proof.Machine

/-- The elapsed time, with the source's wraparound formula as written: one less than the true distance across a wrap
(R143, R145, conflict C7, log entry 19). -/
def elapsed (start now : U32) : Nat :=
  if start ≤ now then now.toNat - start.toNat else Config.maxU32 - start.toNat + now.toNat

/-- TMR.CHECK(`now`): an inactive timer never expires, and "exceeds" is strict (R143). -/
def expired (now : U32) (s : State) : Bool :=
  timerArmed s && decide (s.timeoutMs.toNat < elapsed s.timerStart now)

/-- TMR.ARM(`now`) (R142). -/
def execTmrArm (now : U32) (s : State) : Host.Outcome State Fault Refusal :=
  .next (handOut .nothing (arm now s))

/-- TMR.CHECK(`now`): writes nothing itself (R143). -/
def execTmrCheck (now : U32) (s : State) : Host.Outcome State Fault Refusal :=
  .next (handOut (.expired (expired now s)) s)

/-- TMR.DISARM (R144). -/
def execTmrDisarm (s : State) : Host.Outcome State Fault Refusal :=
  .next (handOut .nothing (disarm s))

end Sys2Proof.Machine
end

