-- ==== Sys2Proof/Machine/Platform.lean ====
section
/-! DEFINITION. The four platform callbacks (spec/45_system_ops.md R196 to R199): each takes the platform's next answer
from the environment part of State, or a free value where none is listed (log entry 7), and is recorded in the trace
(spec/00_scope.md R19). -/

namespace Sys2Proof.Machine

/-! ### NOW -/

/-- What NOW answers: any `u32`; the engine cannot tell a clock that breaks its contract (R198,
spec/42_timeout.md R148). -/
def nowAnswer (s : State) : U32 :=
  match s.nows with
  | v :: _ => v
  | [] => Config.freeNow s.freeCount

/-- The state after NOW. -/
def afterNow (s : State) : State :=
  { s with
    nows := s.nows.tail
    freeCount := if s.nows.isEmpty then s.freeCount + 1 else s.freeCount
    trace := s.trace ++ [.now (nowAnswer s)] }

/-- NOW(). -/
def execNow (s : State) : Host.Outcome State Fault Refusal :=
  .next (handOut (.sample (nowAnswer s)) (afterNow s))

/-! ### READ -/

/-- How many bytes the platform delivers: the next listed count; 0 when nothing waits and none is listed; else a free
value within R196's bound. -/
def readCount (max : Nat) (s : State) : Nat :=
  match s.counts with
  | n :: _ => n
  | [] => if s.rx.isEmpty then 0 else Config.freeReadCount s.freeCount % (min max s.rx.length + 1)

/-- The bytes READ hands over: the oldest unread ones, in arrival order (R196, spec/20_memory.md R51). -/
def readAnswer (max : Nat) (s : State) : List Byte :=
  if s.rx.isEmpty then [] else s.rx.take (readCount max s)

/-- The state after READ: a byte it returned is gone from the transport (R51). -/
def afterRead (max : Nat) (s : State) : State :=
  { s with
    rx := if s.rx.isEmpty then [] else s.rx.drop (readCount max s)
    counts := s.counts.tail
    freeCount := if s.counts.isEmpty && !s.rx.isEmpty then s.freeCount + 1 else s.freeCount
    trace := s.trace ++ [.read max (readAnswer max s)] }

/-- READ(`max`): an answer of more than `max` bytes is refused (R196). -/
def callRead (max : Nat) (s : State) : Res (List Byte) :=
  if max < (readAnswer max s).length then .refused .readOverrun
  else .next (readAnswer max s, afterRead max s)

/-- READ as an operation of its own. -/
def execRead (max : Nat) (s : State) : Host.Outcome State Fault Refusal :=
  hand (callRead max s) .bytes

/-! ### WRITE -/

/-- What WRITE answers: a count, which nothing reads (R197, D11). -/
def writeAnswer (s : State) : Nat :=
  match s.writtens with
  | n :: _ => n
  | [] => Config.freeWritten s.freeCount

/-- The state after WRITE(`bytes`). -/
def afterWrite (bytes : List Byte) (s : State) : State :=
  { s with
    writtens := s.writtens.tail
    freeCount := if s.writtens.isEmpty then s.freeCount + 1 else s.freeCount
    trace := s.trace ++ [.write bytes (writeAnswer s)] }

/-- WRITE(`bytes`) as an operation of its own. -/
def execWrite (bytes : List Byte) (s : State) : Host.Outcome State Fault Refusal :=
  .next (handOut (.count (writeAnswer s)) (afterWrite bytes s))

/-! ### HANDLE -/

/-- What HANDLE answers: the next listed reply, or a free one that is as long as it says (R199). -/
def handleAnswer (s : State) : Reply :=
  match s.replies with
  | r :: _ => r
  | [] =>
    match Config.freeReply s.freeCount with
    | none => { data := none, size := 0 }
    | some d => { data := some d, size := d.length }

/-- The state after HANDLE(`cmd`, `data`, `size`): none of the engine's registers change (R199). -/
def afterHandle (cmd : Byte) (data : List Byte) (size : Nat) (s : State) : State :=
  { s with
    replies := s.replies.tail
    freeCount := if s.replies.isEmpty then s.freeCount + 1 else s.freeCount
    trace := s.trace ++ [.handle cmd data size (handleAnswer s)] }

/-- HANDLE(`cmd`, `data`, `size`) as an operation of its own. -/
def execHandle (cmd : Byte) (data : List Byte) (size : Nat) (s : State) : Host.Outcome State Fault Refusal :=
  .next (handOut (.reply (handleAnswer s)) (afterHandle cmd data size s))

end Sys2Proof.Machine
end

