-- ==== Sys2Proof/Machine/Transmit.lean ====
section
/-! DEFINITION. The call / transmit path and its busy guard (spec/44_transmit.md R180 to R191). -/

namespace Sys2Proof.Machine

/-- Steps R185 and R186 of CALL: the transmit-buffer bound, then one WRITE whose answer is ignored. -/
def transmit (stuffed : List Byte) (s : State) : ErrorCode × State :=
  if s.txCapacity < stuffed.length then (.overflow, unspecifiedTx s)
  else (.none, afterWrite stuffed (setTx stuffed s))

/-- CALL(`address`, `command`, `data`, `size`): an invocation with fewer data bytes than `size` is refused, whatever the
size and the state (R191, spec/45_system_ops.md R200, U10; log entry 21); then the size test, the busy guard, and the
frame built, stuffed and written (R180 to R187). `size` is compared as given, never truncated (D16). -/
def callCore (address command : Byte) (size : Nat) (data : List Byte) (s : State) : Res ErrorCode :=
  match payloadOf size data with
  | none => .refused .shortData
  | some payload =>
    if Config.maxPayload < size then .next (.invalidData, s)
    else if busy s then .next (.busy, s)
    else .next (transmit (encodedBytes (buildFrame s.crcTable address command payload)) s)

/-- CALL as the host invokes it. -/
def execCall (address command : Byte) (size : Nat) (data : List Byte) (s : State) :
    Host.Outcome State Fault Refusal :=
  publicReturn s (callCore address command size data s)

end Sys2Proof.Machine
end

