-- ==== Sys2Proof/Machine/Assembler.lean ====
section
/-! DEFINITION. The frame assembler: POLL and the steps it selects (spec/43_frame_assembler.md R150 to R170). Each
internal operation answers the code POLL is to return. -/

namespace Sys2Proof.Machine

/-! ### RX.PENDING -/

/-- RX.PENDING, preamble seen: both receive buffers cleared, three header bytes to come, the timer armed (R153). -/
def beginFrame (now : U32) (s : State) : State :=
  { arm now (setNeed Config.headerSize (clearWork (clearIntake s))) with state := .headerReceiving }

/-- RX.PENDING on the bytes READ(1) returned: nothing (R152), the preamble (R153), any other byte (R154). -/
def classifyFirst (now : U32) (new : List Byte) (s : State) : Res ErrorCode :=
  match new with
  | [] => .next (.none, s)
  | b :: _ => if b = Config.preamble then .next (.none, beginFrame now s) else .next (.invalidData, s)

/-- RX.PENDING(`now`) (R152). -/
def rxPending (now : U32) (s : State) : Res ErrorCode :=
  andThen (callRead 1 s) (classifyFirst now)

/-! ### RX.READ_DESTUFF -/

/-- What RX.READ_DESTUFF answers (R155). -/
inductive ReadResult where
  | noProgress
  | progress
  | aborted (e : ErrorCode)
deriving DecidableEq, Repr

/-- The trailing escape byte is withheld (R158): the complete part, and whether one was held back. -/
def splitHeld (intake : List Byte) : List Byte × Bool :=
  if intake.getLast? = some Config.esc then (intake.dropLast, true) else (intake, false)

/-- Destuff the complete bytes into `work`; whatever the failure, `INVALID_DATA` and the abort (R159). -/
def destuffBody (body : List Byte) (hold : Bool) (s : State) : Res ReadResult :=
  match body with
  | [] => .next (.progress, keepIntake hold s)
  | _ :: _ =>
    match destuffBytes body (Config.capacity - s.workLen) with
    | .fail _ => .next (.aborted .invalidData, abort s)
    | .ok decoded => .next (.progress, keepIntake hold (appendWork decoded s))

/-- The accumulated intake, withheld part split off, then destuffed (R158, R159). -/
def destuffIntake (s : State) : Res ReadResult :=
  match intakeBytes s with
  | none => .fault (.unspecifiedByte .intake s.intakeLen)
  | some bytes => destuffBody (splitHeld bytes).1 (splitHeld bytes).2 s

/-- What follows a READ in a receiving state: no progress (R156), the stray-preamble scan over exactly the new bytes
(R157), then destuffing. -/
def takeNew (new : List Byte) (s : State) : Res ReadResult :=
  match new with
  | [] => .next (.noProgress, s)
  | _ :: _ =>
    if Config.preamble ∈ new then .next (.aborted .invalidData, abort (appendIntake new s))
    else destuffIntake (appendIntake new s)

/-- RX.READ_DESTUFF: the intake bound (spec/20_memory.md R57), then one bounded READ (R155). -/
def rxReadDestuff (s : State) : Res ReadResult :=
  if s.intakeCapacity < s.intakeLen + s.need.toNat then .next (.aborted .overflow, abort s)
  else andThen (callRead s.need.toNat s) takeNew

/-! ### RX.FILTER, RX.REPLY, RX.DISPATCH -/

/-- RX.FILTER(`frame_address`): accept unless both addresses are non-zero and they differ (R163). -/
def accepts (ownAddress frameAddress : Byte) : Bool :=
  !(ownAddress != 0 && frameAddress != 0 && frameAddress != ownAddress)

/-- RX.REPLY(`reply`): the header of the reply from the received frame, then the nested CALL, whose code is POLL's
(R164). -/
def rxReply (reply : Reply) (s : State) : Res ErrorCode :=
  match workByte s 0, workByte s 1 with
  | some address, some command =>
    let h := replyHeaderOf s.replyHeader address command s.ownAddress
    callCore h.1 h.2 reply.size (replyData reply) s
  | _, _ => .fault (.unspecifiedByte .work s.workLen)

/-- The handler's answer: a non-empty reply is transmitted at once, else POLL ends with `NONE` (R162, R164). -/
def afterHandler (reply : Reply) (s : State) : Res ErrorCode :=
  if nonEmptyReply reply then rxReply reply s else .next (.none, s)

/-- A frame whose checksum is good: `Pending` and the timer disarmed before the handler, in both branches of the filter
(R162, R163). -/
def deliver (f : Frame) (s : State) : Res ErrorCode :=
  let t := toPending s
  if accepts s.ownAddress f.address then
    afterHandler (handleAnswer t) (afterHandle f.command f.payload f.size.toNat t)
  else .next (.none, t)

/-- RX.DISPATCH: checksum first, then filter, then hand-over (R162). -/
def rxDispatch (s : State) : Res ErrorCode :=
  match receivedFrame s with
  | none => .fault (.unspecifiedByte .work s.workLen)
  | some f => if check s.crcTable (frameBytes f) then deliver f s else .next (.crc, abort s)

/-! ### RX.HEADER, RX.COMPLETE, POLL -/

/-- The three header bytes are decoded: an oversized `size` aborts, any other moves on to the payload (R160). -/
def headerDone (s : State) : Res ErrorCode :=
  match workByte s 2 with
  | none => .fault (.unspecifiedByte .work 2)
  | some size =>
    if Config.maxPayload < size.toNat then .next (.invalidData, abort s)
    else .next (.none, setNeed (size.toNat + Config.crcSize - (s.workLen - Config.headerSize))
      { s with state := .completeReceiving })

/-- RX.HEADER after RX.READ_DESTUFF: `need <- max(0, 3 - work_len)` (R160). -/
def headerStep (r : ReadResult) (s : State) : Res ErrorCode :=
  match r with
  | .noProgress => .next (.none, s)
  | .aborted e => .next (e, s)
  | .progress =>
    let t := setNeed (Config.headerSize - s.workLen) s
    if Config.headerSize - s.workLen = 0 then headerDone t else .next (.none, t)

/-- RX.HEADER (R160). -/
def rxHeader (s : State) : Res ErrorCode := andThen (rxReadDestuff s) headerStep

/-- RX.COMPLETE after RX.READ_DESTUFF: `size` re-read, `need <- max(0, 3 + size + 1 - work_len)`, dispatch in the same
POLL when nothing is missing (R161). -/
def completeStep (r : ReadResult) (s : State) : Res ErrorCode :=
  match r with
  | .noProgress => .next (.none, s)
  | .aborted e => .next (e, s)
  | .progress =>
    match workByte s 2 with
    | none => .fault (.unspecifiedByte .work 2)
    | some size =>
      let missing := Config.headerSize + size.toNat + Config.crcSize - s.workLen
      if 0 < missing then .next (.none, setNeed missing s) else rxDispatch (setNeed missing s)

/-- RX.COMPLETE (R161). -/
def rxComplete (s : State) : Res ErrorCode := andThen (rxReadDestuff s) completeStep

/-- POLL after its clock sample: the timeout check before everything else, then the step of the state (R151). -/
def pollWith (now : U32) (s : State) : Res ErrorCode :=
  if expired now s then .next (.timeout, abort s)
  else
    match s.state with
    | .pending => rxPending now s
    | .headerReceiving => rxHeader s
    | .completeReceiving => rxComplete s

/-- POLL: exactly one clock sample (R151, D14). -/
def pollCore (s : State) : Res ErrorCode := pollWith (nowAnswer s) (afterNow s)

/-- POLL as the host invokes it. -/
def hostPoll (s : State) : Host.Outcome State Fault Refusal := publicReturn s (pollCore s)

/-! ### The operations -/

/-- POLL (R151). -/
def execPoll (s : State) : Host.Outcome State Fault Refusal := hostPoll s

/-- RX.PENDING(`now`) as an operation of its own (R152). -/
def execRxPending (now : U32) (s : State) : Host.Outcome State Fault Refusal := hand (rxPending now s) .code

/-- How RX.READ_DESTUFF's answer is handed over. -/
def ReadResult.output : ReadResult → Output
  | .noProgress => .progress false
  | .progress => .progress true
  | .aborted e => .code e

/-- RX.READ_DESTUFF as an operation of its own (R155). -/
def execRxReadDestuff (s : State) : Host.Outcome State Fault Refusal := hand (rxReadDestuff s) ReadResult.output

/-- RX.HEADER as an operation of its own (R160). -/
def execRxHeader (s : State) : Host.Outcome State Fault Refusal := hand (rxHeader s) .code

/-- RX.COMPLETE as an operation of its own (R161). -/
def execRxComplete (s : State) : Host.Outcome State Fault Refusal := hand (rxComplete s) .code

/-- RX.DISPATCH as an operation of its own (R162). -/
def execRxDispatch (s : State) : Host.Outcome State Fault Refusal := hand (rxDispatch s) .code

/-- RX.FILTER(`frame_address`) (R163). -/
def execRxFilter (frameAddress : Byte) (s : State) : Host.Outcome State Fault Refusal :=
  .next (handOut (.accepted (accepts s.ownAddress frameAddress)) s)

/-- RX.REPLY(`reply`) as an operation of its own (R164). -/
def execRxReply (reply : Reply) (s : State) : Host.Outcome State Fault Refusal := hand (rxReply reply s) .code

/-- RX.ABORT(`E`): the abort, and the code handed to the invoker (spec/60_exceptions.md R218). -/
def execRxAbort (code : ErrorCode) (s : State) : Host.Outcome State Fault Refusal :=
  .next (handOut (.code code) (abort s))

end Sys2Proof.Machine
end

