-- ==== Sys2Proof/Machine/Wire.lean ====
section
/-! DEFINITION. The symbols of the stuffed stream and the two frame formats, as what the engine does when it meets them
(spec/30_encoding.md R80 to R85; log entries 12, 13). -/

namespace Sys2Proof.Machine

/-- The link's oldest unread byte is `b`, and it is all that READ delivers. -/
def offerByte (b : Byte) (s : State) : State := { s with rx := b :: s.rx, counts := 1 :: s.counts }

/-- The engine meets one raw byte: the host POLLs, and POLLs again if the first POLL ended before its READ (a timeout
or an intake overflow, which leave the byte in the transport: spec/20_memory.md R68). After such an abort the engine is
in `Pending` with the timer inactive, so the second POLL reads. -/
def meetByte (b : Byte) (s : State) : Host.Outcome State Fault Refusal :=
  match hostPoll (offerByte b s) with
  | .next t => if s.rx.length < t.rx.length then hostPoll t else .next t
  | .fault x => .fault x
  | .refused x => .refused x

/-- The engine meets raw bytes one after the other. -/
def meetBytes : List Byte → State → Host.Outcome State Fault Refusal
  | [], s => .next s
  | b :: bs, s =>
    match meetByte b s with
    | .next t => meetBytes bs t
    | .fault x => .fault x
    | .refused x => .refused x

/-- PREAMBLE: a raw `0xC0`, which starts a frame in `Pending` and is a stray preamble anywhere else (R83, R85,
spec/43_frame_assembler.md R152, R157). -/
def execPreamble (s : State) : Host.Outcome State Fault Refusal := meetBytes [Config.preamble] s

/-- ESC_PREAMBLE: `0xDB 0xDC`, which decodes to `0xC0` (R85, R127). -/
def execEscPreamble (s : State) : Host.Outcome State Fault Refusal := meetBytes [Config.esc, Config.markA] s

/-- ESC_ESC: `0xDB 0xDD`, which decodes to `0xDB` (R85, R127). -/
def execEscEsc (s : State) : Host.Outcome State Fault Refusal := meetBytes [Config.esc, Config.markB] s

/-- ESC_ILLEGAL: `0xDB` and a byte that is no marker: `INVALID_DATA` and abort, by the stray-preamble scan when that byte
is `0xC0` (R85, R128, R157, R159). -/
def execEscIllegal (m : Byte) (s : State) : Host.Outcome State Fault Refusal := meetBytes [Config.esc, m] s

/-- LITERAL: a byte that decodes to itself (R85, R127). -/
def execLiteral (b : Byte) (s : State) : Host.Outcome State Fault Refusal := meetBytes [b] s

/-- `work` holds these decoded bytes: cleared, then DESTUFF's append of them, as RX.PENDING and RX.READ_DESTUFF write it
(R81, spec/20_memory.md R50, R63). Only `decodedCore` uses it, which compares the length with `CAPACITY` first. -/
def holdBytes (bytes : List Byte) (s : State) : State := appendWork bytes (clearWork s)

/-- What the engine does with decoded bytes that fit `work`, as RX.HEADER and RX.COMPLETE do after a READ: without a
`size` byte the header is not complete (spec/43_frame_assembler.md R160); a `size` above 252 aborts (R160, R90); with
bytes missing `need` says how many (R161); a whole frame is dispatched, no byte after it read (R161, R162, R89). -/
def decodedFits (bytes : List Byte) (s : State) : Res ErrorCode :=
  let t := holdBytes bytes s
  match bytes[2]? with
  | none => .next (.none, setNeed (Config.headerSize - bytes.length) { t with state := .headerReceiving })
  | some size =>
    if Config.maxPayload < size.toNat then .next (.invalidData, abort s)
    else if bytes.length < Config.headerSize + size.toNat + Config.crcSize then
      .next (.none, setNeed (Config.headerSize + size.toNat + Config.crcSize - bytes.length)
        { t with state := .completeReceiving })
    else rxDispatch t

/-- What the engine does with decoded bytes. More than `CAPACITY` of them are the capacity violation of R56: nothing is
written at `work[CAPACITY]`, the code is `INVALID_DATA`, and the engine aborts (spec/20_memory.md R55, R56,
spec/41_stuffing.md R128, spec/10_state.md R26, R32). -/
def decodedCore (bytes : List Byte) (s : State) : Res ErrorCode :=
  if Config.capacity < bytes.length then .next (.invalidData, abort s) else decodedFits bytes s

/-- FRM: a decoded frame stands in `work` (R81). Unlike POLL, CALL and the rows that POLL, it does not look at `initialised`
(the model's choice: log entries 3, 13). -/
def execFrm (f : Frame) (s : State) : Host.Outcome State Fault Refusal := hand (decodedCore (frameBytes f) s) .code

/-- ENC: the engine meets an encoded stream, the preamble and the stuffed image of FRM (R80). -/
def execEnc (f : Frame) (s : State) : Host.Outcome State Fault Refusal := meetBytes (encodedBytes f) s

/-! ### Words that decode to no operation -/

/-- What the machine does with a word that decodes to no operation (log entry 26). Bytes of the link are met one after
the other whatever they are: an escape byte alone is withheld, a stray preamble or a bad marker aborts, a byte between
frames is discarded (R85, R90). Decoded bytes that are no whole frame are incomplete, oversized, longer than their
frame or more than `work` holds (R89, R90, spec/20_memory.md R56). A reserved select is refused (R93, U15), and so are a
state code that is "never produced" (R94) and a result byte that is no code (R92): the spec gives these no effect. -/
def meetUndecoded (e : DecodeError) (w : PortWord) (s : State) : Host.Outcome State Fault Refusal :=
  match w with
  | .op _ _ _ _ _ => .refused (.undecodable e)
  | .wire bytes => meetBytes bytes s
  | .frame bytes => hand (decodedCore bytes s) .code
  | .encoded bytes => meetBytes bytes s
  | .result _ => .refused (.undecodable e)
  | .stateCode _ => .refused (.undecodable e)

end Sys2Proof.Machine
end

