-- ==== Sys2Proof/Machine/Dispatch.lean ====
section
/-! DEFINITION. The dispatch: one arm per constructor of Instr, in the order of spec/opcode_table.json. -/

namespace Sys2Proof.Machine

def exec (i : Instr) (s : State) : Host.Outcome State Fault Refusal :=
  match i with
  | .init => Sys2Proof.Machine.execInit s
  | .poll => Sys2Proof.Machine.execPoll s
  | .call address command size data => Sys2Proof.Machine.execCall address command size data s
  | .crcBuildTable polynomial => Sys2Proof.Machine.execCrcBuildTable polynomial s
  | .crcFold data start => Sys2Proof.Machine.execCrcFold data start s
  | .crcSeed => Sys2Proof.Machine.execCrcSeed s
  | .crcGen address command size payload => Sys2Proof.Machine.execCrcGen address command size payload s
  | .crcCheck frame => Sys2Proof.Machine.execCrcCheck frame s
  | .stuff plaintext => Sys2Proof.Machine.execStuff plaintext s
  | .destuff stuffed maxOut => Sys2Proof.Machine.execDestuff stuffed maxOut s
  | .tmrArm now => Sys2Proof.Machine.execTmrArm now s
  | .tmrCheck now => Sys2Proof.Machine.execTmrCheck now s
  | .tmrDisarm => Sys2Proof.Machine.execTmrDisarm s
  | .rxPending now => Sys2Proof.Machine.execRxPending now s
  | .rxReadDestuff => Sys2Proof.Machine.execRxReadDestuff s
  | .rxHeader => Sys2Proof.Machine.execRxHeader s
  | .rxComplete => Sys2Proof.Machine.execRxComplete s
  | .rxDispatch => Sys2Proof.Machine.execRxDispatch s
  | .rxFilter frameAddress => Sys2Proof.Machine.execRxFilter frameAddress s
  | .rxReply reply => Sys2Proof.Machine.execRxReply reply s
  | .rxAbort code => Sys2Proof.Machine.execRxAbort code s
  | .read max => Sys2Proof.Machine.execRead max s
  | .write bytes => Sys2Proof.Machine.execWrite bytes s
  | .now => Sys2Proof.Machine.execNow s
  | .handle cmd data size => Sys2Proof.Machine.execHandle cmd data size s
  | .preamble => Sys2Proof.Machine.execPreamble s
  | .escPreamble => Sys2Proof.Machine.execEscPreamble s
  | .escEsc => Sys2Proof.Machine.execEscEsc s
  | .escIllegal m => Sys2Proof.Machine.execEscIllegal m s
  | .literal b => Sys2Proof.Machine.execLiteral b s
  | .frm f => Sys2Proof.Machine.execFrm f s
  | .enc f => Sys2Proof.Machine.execEnc f s
  | .codeNone => Sys2Proof.Machine.execCodeNone s
  | .codeTimeout => Sys2Proof.Machine.execCodeTimeout s
  | .codeCrc => Sys2Proof.Machine.execCodeCrc s
  | .codeInvalidData => Sys2Proof.Machine.execCodeInvalidData s
  | .codeOverflow => Sys2Proof.Machine.execCodeOverflow s
  | .codeBusy => Sys2Proof.Machine.execCodeBusy s
  | .statePending => Sys2Proof.Machine.execStatePending s
  | .stateHeaderReceiving => Sys2Proof.Machine.execStateHeaderReceiving s
  | .stateCompleteReceiving => Sys2Proof.Machine.execStateCompleteReceiving s

end Sys2Proof.Machine
end

