-- ==== Sys2Proof/Machine/Step.lean ====
section
/-! DEFINITION. One step of the context: the host's next word, decoded and executed (spec/00_scope.md R19, log
entry 1). -/

namespace Sys2Proof.Machine

/-- Take the host's next word, decode it, execute it. With no word pending the host invokes nothing and the context
stays as it is (R19, R230, log entry 28); a word that decodes to no operation has the effect the spec gives its bytes, or
is refused (spec/30_encoding.md R85, R90, R93, log entry 26). -/
def step (s : State) : Host.Outcome State Fault Refusal :=
  match fetch s with
  | none => .next s
  | some (w, t) =>
    match decode w with
    | .ok i => exec i t
    | .error e => meetUndecoded e w t

/-- The state with the instruction of the table's bits as the host's next word (log entry 2). -/
def State.withFetchWord (s : State) (nbits w : Nat) : State := pushTableWord s (tableWord nbits w)

end Sys2Proof.Machine
end

