-- ==== Sys2Proof/Safety.lean ====
section
/-! DEFINITION. What holds of a context between operations (spec/10_state.md R35), which words a host that keeps its
duties leaves on the port (spec/45_system_ops.md R200), and when the platform keeps its contract (R196, R199). -/

namespace Sys2Proof.Machine

/-- The words that stand for what a host and a link do: public operations, wire symbols met through POLL, encoded
streams, returned codes. A decoded frame or a state code written from outside is no such move. -/
def lawfulWord : PortWord → Bool
  | .op _ _ _ _ _ => true
  | .wire _ => true
  | .encoded _ => true
  | .result _ => true
  | .frame _ => false
  | .stateCode _ => false

/-- The invariants between operations, R35 items 1 to 8, with the form of the three buffers and the ranges of the fill
lengths (R20, R27). -/
structure Invariants (s : State) : Prop where
  /-- The first INIT has returned (R251). -/
  started : s.initialised = true
  /-- Each buffer lists exactly the bytes below its fill length (R27). -/
  intakeDense : s.intake.dense s.intakeLen = true
  workDense : s.work.dense s.workLen = true
  txDense : s.tx.dense s.txLen = true
  /-- Item 1, and `need` at 0 in `Pending` (R22). -/
  idle : s.state = .pending → s.timerStart = 0 ∧ s.intakeLen = 0 ∧ s.need = 0
  /-- Item 3. -/
  header : s.state = .headerReceiving → s.workLen ≤ 2 ∧ s.need.toNat = 3 - s.workLen
  /-- Item 4. -/
  payload : s.state = .completeReceiving →
    ∃ size : Byte, workByte s 2 = some size ∧ size.toNat ≤ 252 ∧ 3 ≤ s.workLen ∧
      s.workLen ≤ 3 + size.toNat ∧ s.need.toNat = 3 + size.toNat + 1 - s.workLen
  /-- Item 5. -/
  held : s.intakeLen ≤ 1 ∧ (s.intakeLen = 1 → s.intake.read 0 = some Config.esc)
  /-- Item 6, and the ranges of the other fill lengths (R20). -/
  workBound : s.workLen ≤ Config.capacity
  intakeBound : s.intakeLen ≤ s.intakeCapacity
  txBound : s.txLen ≤ s.txCapacity
  /-- Item 8. -/
  table : s.crcTable = buildTable Config.poly
  /-- The host keeps its duties (R200). -/
  duty : ∀ w ∈ s.port, lawfulWord w = true

/-- Each buffer lists exactly the bytes below its fill length, and the fill length is within the buffer's capacity, so
every index stored to is below it (spec/10_state.md R20, R26, R32; spec/20_memory.md R50, R55). -/
structure BuffersInRange (s : State) : Prop where
  intakeDense : s.intake.dense s.intakeLen = true
  workDense : s.work.dense s.workLen = true
  txDense : s.tx.dense s.txLen = true
  intakeBound : s.intakeLen ≤ s.intakeCapacity
  workBound : s.workLen ≤ 256
  txBound : s.txLen ≤ s.txCapacity

/-- The bound POLL hands to READ: 1 in `Pending`, `need` in the receiving states (R196). -/
def readBound (s : State) : Nat :=
  match s.state with
  | .pending => 1
  | .headerReceiving => s.need.toNat
  | .completeReceiving => s.need.toNat

/-- A handler's answer whose data, if there is any, holds as many bytes as it says (R199, spec/44_transmit.md R191). -/
def replyKept (r : Reply) : Prop := ∀ d ∈ r.data, r.size ≤ d.length

/-- The clock's answer to the `k`-th NOW from here, if no other free value is taken before it: the next ones listed, and
free values after them (R198, log entry 7). -/
def clockAnswer (s : State) (k : Nat) : U32 :=
  match s.nows[k]? with
  | some v => v
  | none => Config.freeNow (s.freeCount + (k - s.nows.length))

/-- None of the next `n` clock answers expires a timer that was armed at `start` (spec/42_timeout.md R143). -/
def deadlineKept (n : Nat) (start : U32) (s : State) : Prop :=
  ∀ k < n, expired (clockAnswer s k) { s with timerStart := start } = false

/-- The platform keeps its contract in the next POLL: READ answers within its bound (R196), and a handler's answer is
as long as it says (R199). -/
def platformKept (s : State) : Prop :=
  (∀ n ∈ s.counts.head?, (s.rx.take n).length ≤ readBound s) ∧ (∀ r ∈ s.replies.head?, replyKept r)

/-- What the next READ of a receiving state delivers and how it decodes (spec/43_frame_assembler.md R155 to R159): the
intake holds `held`, `work` holds `ws`, READ delivers `new` within its bound and the intake's capacity, no byte of
`new` is a preamble, the accumulated intake is `body` with or without a withheld escape byte after it, and DESTUFF of
`body` into the room left gives `decoded`. -/
structure Decodes (s : State) (held ws new body decoded : List Byte) (hold : Bool) : Prop where
  intake : s.intake = Memory.ofBytes held
  intakeLen : s.intakeLen = held.length
  work : s.work = Memory.ofBytes ws
  workLen : s.workLen = ws.length
  room : held.length + s.need.toNat ≤ s.intakeCapacity
  answer : readAnswer s.need.toNat s = new
  some : new ≠ []
  bound : new.length ≤ s.need.toNat
  noStray : Config.preamble ∉ new
  split : held ++ new = body ++ (if hold then [Config.esc] else [])
  last : hold = false → body.getLast? ≠ Option.some Config.esc
  decode : destuffBytes body (Config.capacity - ws.length) = .ok decoded

/-- The state after such a READ: the decoded bytes appended to `work`, the withheld byte alone in `intake`. -/
def afterDecode (s : State) (ws decoded : List Byte) (hold : Bool) : State :=
  { afterRead s.need.toNat s with
    intake := Memory.ofBytes (if hold then [Config.esc] else [])
    intakeLen := if hold then 1 else 0
    work := Memory.ofBytes (ws ++ decoded)
    workLen := (ws ++ decoded).length }

end Sys2Proof.Machine
end

