-- ==== Sys2Proof/WellFormed.lean ====
section
/-! DEFINITION. Which operand values the spec allows an operation (a Bool for each constructor). -/

namespace Sys2Proof

/-- `data` holds at least `size` bytes, whatever the size (spec/44_transmit.md R191, spec/45_system_ops.md R200). -/
def enoughData (size : Nat) (data : List Byte) : Bool := decide (size ≤ data.length)

/-- A reply that RX.REPLY is invoked with: data present, size above 0, and as many bytes as it says
(spec/43_frame_assembler.md R164, D13). -/
def Reply.wellFormed (r : Reply) : Bool :=
  match r.data with
  | none => false
  | some d => decide (0 < r.size) && enoughData r.size d

/-- A frame of format FRM: `size` counts the payload, is at most 252, and the checksum is CRC.GEN of the rest
(spec/30_encoding.md R81, R87). -/
def Frame.wellFormed (f : Frame) : Bool :=
  decide (f.payload.length = f.size.toNat) && decide (f.size.toNat ≤ Config.maxPayload) &&
    decide (f.crc = Machine.gen Machine.crcTable31 f.address f.command f.size f.payload)

/-- The codes an abort is invoked with: BUSY never aborts, and NONE is no error (spec/60_exceptions.md R215). -/
def ErrorCode.aborts : ErrorCode → Bool
  | .none => false
  | .timeout => true
  | .crc => true
  | .invalidData => true
  | .overflow => true
  | .busy => false

/-- Whether an operation's operands are ones the spec gives it. -/
def wellFormed : Instr → Bool
  | .init => true
  | .poll => true
  | .call _ _ size data => enoughData size data
  | .crcBuildTable _ => true
  | .crcFold _ _ => true
  | .crcSeed => true
  -- R114: at most 252, and a sequence of `size` bytes
  | .crcGen _ _ size payload => decide (size.toNat ≤ Config.maxPayload) && decide (payload.length = size.toNat)
  | .crcCheck _ => true
  | .stuff _ => true
  | .destuff _ _ => true
  | .tmrArm _ => true
  | .tmrCheck _ => true
  | .tmrDisarm => true
  | .rxPending _ => true
  | .rxReadDestuff => true
  | .rxHeader => true
  | .rxComplete => true
  | .rxDispatch => true
  | .rxFilter _ => true
  | .rxReply reply => reply.wellFormed
  | .rxAbort code => code.aborts
  -- R196: always at least 1, at most the largest `need`
  | .read max => decide (1 ≤ max) && decide (max ≤ Config.maxPayload + Config.crcSize)
  -- R197, R86: a whole stuffed frame, 5 to 512 bytes, beginning with the preamble
  | .write bytes => decide (bytes.head? = some Config.preamble) && decide (5 ≤ bytes.length) && decide (bytes.length ≤ 512)
  | .now => true
  -- R199: `data` is the view of `size` bytes, `size` at most 252
  | .handle _ data size => decide (data.length = size) && decide (size ≤ Config.maxPayload)
  | .preamble => true
  | .escPreamble => true
  | .escEsc => true
  -- R85: any marker but the two legal ones
  | .escIllegal m => decide (m ≠ Config.markA) && decide (m ≠ Config.markB)
  -- R85: any byte but the two reserved ones
  | .literal b => decide (b ≠ Config.preamble) && decide (b ≠ Config.esc)
  | .frm f => f.wellFormed
  | .enc f => f.wellFormed
  | .codeNone => true
  | .codeTimeout => true
  | .codeCrc => true
  | .codeInvalidData => true
  | .codeOverflow => true
  | .codeBusy => true
  | .statePending => true
  | .stateHeaderReceiving => true
  | .stateCompleteReceiving => true

end Sys2Proof
end

