-- ==== Sys2Proof/Certificates/Slice0/Obligations.lean ====
section
/-! DEFINITION. The statements about the model, for the provers. Each docstring names the rules of spec/ it rests on. -/

open Sys2Proof Sys2Proof.Machine

/-! ### Reset and INIT -/

/-- 10_state.md R36: the reset values of every piece of state that the spec gives one, and `crc_table` as the result of
CRC.BUILD_TABLE(0x31). -/
def Obligations.ResetHoldsTheStatedValues : Prop :=
  State.reset.state = .pending ∧ State.reset.need = 0 ∧ State.reset.timerStart = 0 ∧
  State.reset.intakeLen = 0 ∧ State.reset.workLen = 0 ∧ State.reset.txLen = 0 ∧
  (∀ i, State.reset.intake.read i = none ∧ State.reset.work.read i = none ∧ State.reset.tx.read i = none) ∧
  State.reset.crcTable = buildTable 0x31

/-- 45_system_ops.md §1 INIT, 70_reset_and_hazards.md §1: INIT takes every context, initialised or not, to the reset values, and
leaves the configuration, the link, the platform's answers and the trace as they are. -/
def Obligations.InitGivesResetValues : Prop :=
  ∀ s : State, exec .init s = .next
    { State.reset with
      ownAddress := s.ownAddress, timeoutMs := s.timeoutMs, intakeCapacity := s.intakeCapacity,
      txCapacity := s.txCapacity, replyHeader := s.replyHeader, rx := s.rx, counts := s.counts, nows := s.nows,
      replies := s.replies, writtens := s.writtens, freeCount := s.freeCount, port := s.port, trace := s.trace }

/-- 70_reset_and_hazards.md R251, 44_transmit.md R191, 45_system_ops.md R200: POLL and CALL are refused before the first
INIT has returned; CALL with fewer data bytes than `size` is refused whatever the size and the state. That the refusal
comes before the other tests is the model's choice (log entry 21). -/
def Obligations.RefusedInvocations : Prop :=
  (∀ s : State, s.initialised = false →
    exec .poll s = .refused .beforeInit ∧
    ∀ (address command : Byte) (size : Nat) (data : List Byte),
      exec (.call address command size data) s = .refused .beforeInit) ∧
  (∀ (s : State) (address command : Byte) (size : Nat) (data : List Byte),
    s.initialised = true → data.length < size →
    exec (.call address command size data) s = .refused .shortData)

/-! ### CALL -/

/-- 44_transmit.md R180 to R186: CALL in `Pending` with a legal size and enough data builds, stuffs and writes the frame,
returns `NONE`, and changes nothing but `tx`, `tx_len` and the observables. The frame, its checksum and its stuffing
are written out here from the encoding rules. -/
def Obligations.CallTransmitsTheStuffedFrame : Prop :=
  ∀ (s : State) (address command : Byte) (size : Nat) (data : List Byte),
    s.initialised = true → s.state = .pending → size ≤ 252 → size ≤ data.length →
    let payload := data.take size
    let header := [address, command, BitVec.ofNat 8 size]
    let crc := fold s.crcTable (header ++ payload) (fold s.crcTable [0xC0] 0)
    let stuffed := 0xC0 :: (header ++ payload ++ [crc]).flatMap fun b =>
      if b = 0xC0 then [0xDB, 0xDC] else if b = 0xDB then [0xDB, 0xDD] else [b]
    stuffed.length ≤ s.txCapacity →
    exec (.call address command size data) s = .next
      { s with
        tx := Memory.ofBytes stuffed, txLen := stuffed.length, writtens := s.writtens.tail,
        freeCount := if s.writtens.isEmpty then s.freeCount + 1 else s.freeCount,
        out := .code .none, trace := s.trace ++ [.write stuffed (writeAnswer s), .returned .none] }

/-- 44_transmit.md R181, R187: a size above 252, with as many data bytes, is `INVALID_DATA` and changes nothing; it is
tested before the state, in the order R187 fixes (decision D10). A size of 252 or less, 0 included, never gives that code.
Fewer data bytes are refused first (RefusedInvocations; log entry 21, DEDUCED). -/
def Obligations.CallRejectsOversizedPayload : Prop :=
  ∀ (s : State) (address command : Byte) (size : Nat) (data : List Byte),
    s.initialised = true →
    (252 < size → size ≤ data.length → exec (.call address command size data) s = .next
      { s with out := .code .invalidData, trace := s.trace ++ [.returned .invalidData] }) ∧
    (size ≤ 252 → ∀ t, exec (.call address command size data) s = .next t → t.out ≠ .code .invalidData)

/-- 44_transmit.md R182: while a frame is mid-receive a CALL that keeps its interface (as many data bytes as `size`, which
R191 asks for) returns `BUSY`, invokes no callback and leaves everything, the transmit buffer included, unmodified; in
`Pending` it never returns that code. A CALL with fewer data bytes is refused (RefusedInvocations). -/
def Obligations.CallReturnsBusyWhileReceiving : Prop :=
  ∀ (s : State) (address command : Byte) (size : Nat) (data : List Byte),
    s.initialised = true → size ≤ 252 → size ≤ data.length →
    (s.state ≠ .pending → exec (.call address command size data) s = .next
      { s with out := .code .busy, trace := s.trace ++ [.returned .busy] }) ∧
    (s.state = .pending → ∀ t, exec (.call address command size data) s = .next t → t.out ≠ .code .busy)

/-- 44_transmit.md R185: a stuffed frame longer than `TX_CAPACITY` is `OVERFLOW`: no WRITE, everything but `tx` and `tx_len` as it
was, and those two left open within the capacity. The counter of free values is the model's own (log entry 9). -/
def Obligations.CallOverflowSendsNothing : Prop :=
  ∀ (s : State) (address command : Byte) (size : Nat) (data : List Byte),
    s.initialised = true → s.state = .pending → size ≤ 252 → size ≤ data.length →
    s.txCapacity < (encodedBytes (buildFrame s.crcTable address command (data.take size))).length →
    ∃ t, exec (.call address command size data) s = .next t ∧
      { t with tx := s.tx, txLen := s.txLen, freeCount := s.freeCount } =
        { s with out := .code .overflow, trace := s.trace ++ [.returned .overflow] } ∧
      t.txLen ≤ s.txCapacity ∧ t.tx.dense t.txLen = true

/-- 44_transmit.md R189, R38: whatever CALL answers, it writes nothing but `tx`, `tx_len` and the observables. -/
def Obligations.CallLeavesTheReceiveSession : Prop :=
  ∀ (s t : State) (address command : Byte) (size : Nat) (data : List Byte),
    exec (.call address command size data) s = .next t →
    { t with
      tx := s.tx, txLen := s.txLen, writtens := s.writtens, freeCount := s.freeCount, out := s.out,
      trace := s.trace } = s

/-- 30_encoding.md R86: the stuffed length of a frame is between `5 + s` and 512, whatever the table, the address, the
command and the payload; so at the default `TX_CAPACITY` no CALL overflows. -/
def Obligations.StuffedFrameLengthBounds : Prop :=
  ∀ (table : Vector Byte 256) (address command : Byte) (payload : List Byte), payload.length ≤ 252 →
    5 + payload.length ≤ (encodedBytes (buildFrame table address command payload)).length ∧
    (encodedBytes (buildFrame table address command payload)).length ≤ 512

/-! ### POLL -/

/-- 43_frame_assembler.md R152 to R154: POLL in `Pending`: nothing read, the preamble, or any other byte, by what READ(1)
delivers. -/
def Obligations.PollInPending : Prop :=
  ∀ s : State, s.initialised = true → s.state = .pending → s.timerStart = 0 →
    let u := afterRead 1 (afterNow s)
    (readAnswer 1 (afterNow s) = [] → exec .poll s = .next
      { u with out := .code .none, trace := s.trace ++ [.now (nowAnswer s), .read 1 [], .returned .none] }) ∧
    (readAnswer 1 (afterNow s) = [0xC0] → exec .poll s = .next
      { u with
        state := .headerReceiving, need := 3, timerStart := nowAnswer s, intake := [], intakeLen := 0, work := [],
        workLen := 0, out := .code .none,
        trace := s.trace ++ [.now (nowAnswer s), .read 1 [0xC0], .returned .none] }) ∧
    (∀ b : Byte, b ≠ 0xC0 → readAnswer 1 (afterNow s) = [b] → exec .poll s = .next
      { u with
        out := .code .invalidData,
        trace := s.trace ++ [.now (nowAnswer s), .read 1 [b], .returned .invalidData] })

/-- 42_timeout.md R143, 43_frame_assembler.md R151: a POLL that finds the timer expired, in whatever state, returns
`TIMEOUT` with the abort and invokes NOW only: what has arrived stays in the transport. -/
def Obligations.PollTimesOutBeforeReading : Prop :=
  ∀ s : State, s.initialised = true → s.timerStart ≠ 0 →
    s.timeoutMs.toNat < (if s.timerStart.toNat ≤ (nowAnswer s).toNat
      then (nowAnswer s).toNat - s.timerStart.toNat
      else 0xFFFFFFFF - s.timerStart.toNat + (nowAnswer s).toNat) →
    exec .poll s = .next
      { s with
        state := .pending, need := 0, timerStart := 0, intake := [], intakeLen := 0, work := [], workLen := 0,
        nows := s.nows.tail, freeCount := if s.nows.isEmpty then s.freeCount + 1 else s.freeCount,
        out := .code .timeout, trace := s.trace ++ [.now (nowAnswer s), .returned .timeout] }

/-- 43_frame_assembler.md R151, R155, R156, R160, R161: a POLL of a receiving state that does not finish the header or the
frame. Zero bytes read: `NONE`, nothing changed. An abort of RX.READ_DESTUFF: its code is POLL's, and a refusal is
POLL's too. Bytes that decode are appended, `need` is recomputed, and the code is `NONE`. -/
def Obligations.PollInTheReceivingStates : Prop :=
  ∀ s : State, s.initialised = true → s.state ≠ .pending → expired (nowAnswer s) s = false →
    (s.intakeLen + s.need.toNat ≤ s.intakeCapacity → readAnswer s.need.toNat (afterNow s) = [] →
      exec .poll s = .next (returnCode .none (afterRead s.need.toNat (afterNow s)))) ∧
    (∀ (t : State) (e : ErrorCode), exec .rxReadDestuff (afterNow s) = .next t → t.out = .code e →
      exec .poll s = .next (returnCode e t)) ∧
    (∀ x : Refusal, exec .rxReadDestuff (afterNow s) = .refused x → exec .poll s = .refused x) ∧
    (∀ (held ws new body decoded : List Byte) (hold : Bool),
      Decodes (afterNow s) held ws new body decoded hold →
      (s.state = .headerReceiving → (ws ++ decoded).length < 3 →
        exec .poll s = .next (returnCode .none
          { afterDecode (afterNow s) ws decoded hold with need := BitVec.ofNat 8 (3 - (ws ++ decoded).length) })) ∧
      (∀ size : Byte, s.state = .completeReceiving → (ws ++ decoded)[2]? = some size →
        (ws ++ decoded).length < 3 + size.toNat + 1 →
        exec .poll s = .next (returnCode .none
          { afterDecode (afterNow s) ws decoded hold with
            need := BitVec.ofNat 8 (3 + size.toNat + 1 - (ws ++ decoded).length) })))

/-- 45_system_ops.md R196, R199: from a state of R35, with the platform keeping its contract, POLL answers a next state,
and R35 holds there again. -/
def Obligations.PollCompletesUnderTheContract : Prop :=
  ∀ s : State, Invariants s → platformKept s → ∃ t, exec .poll s = .next t ∧ Invariants t

/-- 43_frame_assembler.md R160 to R164: a POLL whose bytes finish the header, or the frame. A legal `size` moves on to the
payload, a larger one aborts with `INVALID_DATA`. A whole frame: a bad checksum aborts with `CRC`; a good one for another
node is discarded; a good one that the filter accepts goes to HANDLE, in `Pending` with the timer disarmed, and then
the code is `NONE`, or what RX.REPLY of the handler's answer gives. -/
def Obligations.PollFinishesHeaderOrFrame : Prop :=
  ∀ (s : State) (held ws new body decoded : List Byte) (hold : Bool),
    s.initialised = true → expired (nowAnswer s) s = false →
    Decodes (afterNow s) held ws new body decoded hold →
    let v := afterDecode (afterNow s) ws decoded hold
    let aborted : State :=
      { v with
        state := .pending, need := 0, timerStart := 0, intake := [], intakeLen := 0, work := [], workLen := 0 }
    (∀ a c size : Byte, s.state = .headerReceiving → ws ++ decoded = [a, c, size] →
      (size.toNat ≤ 252 → exec .poll s = .next (returnCode .none
        { v with state := .completeReceiving, need := BitVec.ofNat 8 (size.toNat + 1) })) ∧
      (252 < size.toNat → exec .poll s = .next (returnCode .invalidData aborted))) ∧
    (∀ f : Frame, s.state = .completeReceiving → f.payload.length = f.size.toNat → ws ++ decoded = frameBytes f →
      (fold s.crcTable (frameBytes f) (fold s.crcTable [0xC0] 0) ≠ 0 →
        exec .poll s = .next (returnCode .crc aborted)) ∧
      (fold s.crcTable (frameBytes f) (fold s.crcTable [0xC0] 0) = 0 →
        s.ownAddress ≠ 0 → f.address ≠ 0 → f.address ≠ s.ownAddress →
        exec .poll s = .next (returnCode .none { v with state := .pending, need := 0, timerStart := 0 })) ∧
      (fold s.crcTable (frameBytes f) (fold s.crcTable [0xC0] 0) = 0 →
        (s.ownAddress = 0 ∨ f.address = 0 ∨ f.address = s.ownAddress) →
        let w : State :=
          { v with
            state := .pending, need := 0, timerStart := 0, replies := s.replies.tail,
            freeCount := if s.replies.isEmpty then v.freeCount + 1 else v.freeCount,
            trace := v.trace ++ [.handle f.command f.payload f.size.toNat (handleAnswer v)] }
        ((handleAnswer v).data = none ∨ (handleAnswer v).size = 0 →
          exec .poll s = .next (returnCode .none w)) ∧
        ((handleAnswer v).data ≠ none → 0 < (handleAnswer v).size →
          (∀ (t : State) (e : ErrorCode), exec (.rxReply (handleAnswer v)) w = .next t → t.out = .code e →
            exec .poll s = .next (returnCode e t)) ∧
          (∀ x : Refusal, exec (.rxReply (handleAnswer v)) w = .refused x → exec .poll s = .refused x))))

/-- 20_memory.md R68, 43_frame_assembler.md R151: one POLL makes one NOW first, then at most one READ, then at most one
HANDLE, then at most one WRITE, in this order; a POLL that returns `TIMEOUT` makes NOW only; and POLL never returns
`BUSY`. -/
def Obligations.PollCallbackOrder : Prop :=
  ∀ s t : State, exec .poll s = .next t →
    ∃ (reads handles writes : List Event) (e : ErrorCode),
      t.trace = s.trace ++ .now (nowAnswer s) :: (reads ++ handles ++ writes ++ [.returned e]) ∧
      t.out = .code e ∧ e ≠ .busy ∧
      reads.length ≤ 1 ∧ (∀ v ∈ reads, ∃ max bytes, v = .read max bytes) ∧
      handles.length ≤ 1 ∧ (∀ v ∈ handles, ∃ cmd data size reply, v = .handle cmd data size reply) ∧
      writes.length ≤ 1 ∧ (∀ v ∈ writes, ∃ bytes written, v = .write bytes written) ∧
      (handles ≠ [] → reads ≠ []) ∧ (writes ≠ [] → handles ≠ []) ∧ (e = .timeout → reads = [])

/-- 43_frame_assembler.md R165: no edge out of `Pending` other than to `HeaderReceiving`, and none from
`CompleteReceiving` to `HeaderReceiving`. -/
def Obligations.PollTransitions : Prop :=
  ∀ s t : State, exec .poll s = .next t →
    (s.state = .pending → t.state = .pending ∨ t.state = .headerReceiving) ∧
    (s.state = .completeReceiving → t.state = .pending ∨ t.state = .completeReceiving)

/-- 43_frame_assembler.md R155, R196: a POLL takes at most the bytes it asked for, from the head of the transport:
nothing beyond the frame is consumed. -/
def Obligations.PollTakesAtMostItsBound : Prop :=
  ∀ s t : State, exec .poll s = .next t → ∃ new, s.rx = new ++ t.rx ∧ new.length ≤ readBound s

/-- 10_state.md R29, R31, R37: POLL writes neither the table nor the configuration nor the host's pending words. -/
def Obligations.PollLeavesTableAndConfiguration : Prop :=
  ∀ s t : State, exec .poll s = .next t →
    t.crcTable = s.crcTable ∧ t.ownAddress = s.ownAddress ∧ t.timeoutMs = s.timeoutMs ∧
    t.intakeCapacity = s.intakeCapacity ∧ t.txCapacity = s.txCapacity ∧ t.replyHeader = s.replyHeader ∧
    t.port = s.port ∧ t.initialised = s.initialised

/-- 60_exceptions.md R215, R218: a POLL that returns `TIMEOUT` or `CRC` has aborted: `Pending`, `need` 0, timer disarmed,
both receive buffers empty, and `tx` as it was. -/
def Obligations.PollTimeoutAndCrcAbort : Prop :=
  ∀ s t : State, exec .poll s = .next t → t.out = .code .timeout ∨ t.out = .code .crc →
    t.state = .pending ∧ t.need = 0 ∧ t.timerStart = 0 ∧ t.intakeLen = 0 ∧ t.workLen = 0 ∧
    t.tx = s.tx ∧ t.txLen = s.txLen

/-! ### The frame assembler's internal operations -/

/-- 43_frame_assembler.md R152 to R154: RX.PENDING by what READ(1) delivers. -/
def Obligations.RxPendingClassifiesOneByte : Prop :=
  ∀ (s : State) (now : U32),
    let u := afterRead 1 s
    (readAnswer 1 s = [] → exec (.rxPending now) s = .next { u with out := .code .none }) ∧
    (readAnswer 1 s = [0xC0] → exec (.rxPending now) s = .next
      { u with
        state := .headerReceiving, need := 3, timerStart := now, intake := [], intakeLen := 0, work := [],
        workLen := 0, out := .code .none }) ∧
    (∀ b : Byte, b ≠ 0xC0 → readAnswer 1 s = [b] →
      exec (.rxPending now) s = .next { u with out := .code .invalidData })

/-- 43_frame_assembler.md R155, R158, R159: bytes that decode are appended to `work`, a trailing escape byte is the
whole content of `intake`, and nothing else of the context changes. -/
def Obligations.ReadDestuffAppendsDecodedBytes : Prop :=
  ∀ (s : State) (held ws new body decoded : List Byte) (hold : Bool),
    Decodes s held ws new body decoded hold →
    exec .rxReadDestuff s = .next { afterDecode s ws decoded hold with out := .progress true }

/-- 20_memory.md R57, 43_frame_assembler.md R156, R157, R159: where RX.READ_DESTUFF decodes nothing. Zero bytes read is
success without progress: a withheld byte, `need` and the timer stay. The three aborts: intake exhausted before the READ,
a raw preamble anywhere among the new bytes, and a DESTUFF failure of whatever kind. -/
def Obligations.ReadDestuffDecodesNothing : Prop :=
  ∀ s : State,
    let aborted (u : State) (e : ErrorCode) : State :=
      { u with
        state := .pending, need := 0, timerStart := 0, intake := [], intakeLen := 0, work := [], workLen := 0,
        out := .code e }
    (s.intakeLen + s.need.toNat ≤ s.intakeCapacity → readAnswer s.need.toNat s = [] →
      exec .rxReadDestuff s = .next { afterRead s.need.toNat s with out := .progress false }) ∧
    (s.intakeCapacity < s.intakeLen + s.need.toNat → exec .rxReadDestuff s = .next (aborted s .overflow)) ∧
    (s.intakeLen + s.need.toNat ≤ s.intakeCapacity → (readAnswer s.need.toNat s).length ≤ s.need.toNat →
      0xC0 ∈ readAnswer s.need.toNat s →
      exec .rxReadDestuff s = .next (aborted (afterRead s.need.toNat s) .invalidData)) ∧
    (∀ (held body : List Byte) (hold : Bool) (kind : DestuffFailure),
      s.intake = Memory.ofBytes held → s.intakeLen = held.length →
      s.intakeLen + s.need.toNat ≤ s.intakeCapacity → (readAnswer s.need.toNat s).length ≤ s.need.toNat →
      readAnswer s.need.toNat s ≠ [] → 0xC0 ∉ readAnswer s.need.toNat s →
      held ++ readAnswer s.need.toNat s = body ++ (if hold then [0xDB] else []) →
      (hold = false → body.getLast? ≠ some 0xDB) →
      destuffBytes body (256 - s.workLen) = .fail kind →
      exec .rxReadDestuff s = .next (aborted (afterRead s.need.toNat s) .invalidData))

/-- 43_frame_assembler.md R156, R160: RX.HEADER. Zero bytes read: `NONE`, nothing changed. An abort of RX.READ_DESTUFF:
its code is passed on. Bytes that decode: fewer than three, or the header complete with a legal or an oversized
`size`. -/
def Obligations.RxHeaderCollectsThreeBytes : Prop :=
  ∀ s : State,
    (s.intakeLen + s.need.toNat ≤ s.intakeCapacity → readAnswer s.need.toNat s = [] →
      exec .rxHeader s = .next { afterRead s.need.toNat s with out := .code .none }) ∧
    (∀ (t : State) (e : ErrorCode), exec .rxReadDestuff s = .next t → t.out = .code e → exec .rxHeader s = .next t) ∧
    (∀ (held ws new body decoded : List Byte) (hold : Bool), Decodes s held ws new body decoded hold →
      let u := afterDecode s ws decoded hold
      ((ws ++ decoded).length < 3 → exec .rxHeader s = .next
        { u with need := BitVec.ofNat 8 (3 - (ws ++ decoded).length), out := .code .none }) ∧
      (∀ a c size : Byte, ws ++ decoded = [a, c, size] → size.toNat ≤ 252 → exec .rxHeader s = .next
        { u with state := .completeReceiving, need := BitVec.ofNat 8 (size.toNat + 1), out := .code .none }) ∧
      (∀ a c size : Byte, ws ++ decoded = [a, c, size] → 252 < size.toNat → exec .rxHeader s = .next
        { u with
          state := .pending, need := 0, timerStart := 0, intake := [], intakeLen := 0, work := [], workLen := 0,
          out := .code .invalidData }))

/-- 43_frame_assembler.md R156, R161: RX.COMPLETE. Zero bytes read: `NONE`, nothing changed. An abort of
RX.READ_DESTUFF: its code is passed on. Bytes that decode: `size` re-read from `work[2]`, `need` recomputed, and
RX.DISPATCH in the same step when nothing is missing. -/
def Obligations.RxCompleteCollectsTheFrame : Prop :=
  ∀ s : State,
    (s.intakeLen + s.need.toNat ≤ s.intakeCapacity → readAnswer s.need.toNat s = [] →
      exec .rxComplete s = .next { afterRead s.need.toNat s with out := .code .none }) ∧
    (∀ (t : State) (e : ErrorCode), exec .rxReadDestuff s = .next t → t.out = .code e →
      exec .rxComplete s = .next t) ∧
    (∀ (held ws new body decoded : List Byte) (hold : Bool) (size : Byte),
      Decodes s held ws new body decoded hold → (ws ++ decoded)[2]? = some size →
      let u := afterDecode s ws decoded hold
      ((ws ++ decoded).length < 3 + size.toNat + 1 → exec .rxComplete s = .next
        { u with need := BitVec.ofNat 8 (3 + size.toNat + 1 - (ws ++ decoded).length), out := .code .none }) ∧
      (3 + size.toNat + 1 ≤ (ws ++ decoded).length →
        exec .rxComplete s = exec .rxDispatch { u with need := 0 }))

/-- 43_frame_assembler.md R162, R163: RX.DISPATCH of a whole frame in `work`. A bad checksum aborts with `CRC` before the
filter is asked. A good frame for another node is discarded silently, without HANDLE. A good frame that the filter
accepts: `Pending` and the timer disarmed, HANDLE with command, payload and size, `work` as it was; then RX.REPLY if the
handler answered, and `NONE` if it did not. -/
def Obligations.RxDispatchByChecksumAndFilter : Prop :=
  ∀ (s : State) (f : Frame) (rest : List Byte),
    s.work = Memory.ofBytes (frameBytes f ++ rest) → s.workLen = f.size.toNat + 4 + rest.length →
    f.payload.length = f.size.toNat →
    (fold s.crcTable (frameBytes f) (fold s.crcTable [0xC0] 0) ≠ 0 → exec .rxDispatch s = .next
      { s with
        state := .pending, need := 0, timerStart := 0, intake := [], intakeLen := 0, work := [], workLen := 0,
        out := .code .crc }) ∧
    (fold s.crcTable (frameBytes f) (fold s.crcTable [0xC0] 0) = 0 →
      s.ownAddress ≠ 0 → f.address ≠ 0 → f.address ≠ s.ownAddress →
      exec .rxDispatch s = .next { s with state := .pending, need := 0, timerStart := 0, out := .code .none }) ∧
    (fold s.crcTable (frameBytes f) (fold s.crcTable [0xC0] 0) = 0 →
      (s.ownAddress = 0 ∨ f.address = 0 ∨ f.address = s.ownAddress) →
      let u : State :=
        { s with
          state := .pending, need := 0, timerStart := 0, replies := s.replies.tail,
          freeCount := if s.replies.isEmpty then s.freeCount + 1 else s.freeCount,
          trace := s.trace ++ [.handle f.command f.payload f.size.toNat (handleAnswer s)] }
      ((handleAnswer s).data = none ∨ (handleAnswer s).size = 0 →
        exec .rxDispatch s = .next { u with out := .code .none }) ∧
      ((handleAnswer s).data ≠ none → 0 < (handleAnswer s).size →
        exec .rxDispatch s = exec (.rxReply (handleAnswer s)) u))

/-- 43_frame_assembler.md R163: the filter's truth table. -/
def Obligations.RxFilterTruthTable : Prop :=
  ∀ (s : State) (frameAddress : Byte),
    exec (.rxFilter frameAddress) s = .next
      { s with
        out := .accepted (if s.ownAddress = 0 then true else if frameAddress = 0 then true
          else decide (frameAddress = s.ownAddress)) }

/-- 43_frame_assembler.md R164, 44_transmit.md R180, R185: RX.REPLY runs the nested CALL under the header of the reply, by
default the received frame's address and command. A reply of at most 252 bytes is transmitted with `NONE`, or is
`OVERFLOW` without WRITE where its stuffed frame is longer than `TX_CAPACITY`; a longer one is `INVALID_DATA` and changes
nothing; outside `Pending`, where no run invokes it, it would be `BUSY`. A reply shorter than it says is refused first:
that this comes before the three tests is the model's choice (log entry 21, DEDUCED), and so are the bounds of the
unspecified `tx` after `OVERFLOW` (log entry 9). -/
def Obligations.RxReplyRunsTheNestedCall : Prop :=
  ∀ (s : State) (address command : Byte) (rest : List Byte) (reply : Reply),
    s.work = Memory.ofBytes (address :: command :: rest) → s.workLen = rest.length + 2 →
    let d := reply.data.getD []
    let h := if s.replyHeader = .echo then (address, command)
      else Config.platformReplyHeader address command s.ownAddress
    let stuffed := encodedBytes (buildFrame s.crcTable h.1 h.2 (d.take reply.size))
    (d.length < reply.size → exec (.rxReply reply) s = .refused .shortData) ∧
    (reply.size ≤ d.length →
      (252 < reply.size → exec (.rxReply reply) s = .next { s with out := .code .invalidData }) ∧
      (reply.size ≤ 252 → s.state ≠ .pending → exec (.rxReply reply) s = .next { s with out := .code .busy }) ∧
      (reply.size ≤ 252 → s.state = .pending → stuffed.length ≤ s.txCapacity →
        exec (.rxReply reply) s = .next
          { s with
            tx := Memory.ofBytes stuffed, txLen := stuffed.length, writtens := s.writtens.tail,
            freeCount := if s.writtens.isEmpty then s.freeCount + 1 else s.freeCount,
            out := .code .none, trace := s.trace ++ [.write stuffed (writeAnswer s)] }) ∧
      (reply.size ≤ 252 → s.state = .pending → s.txCapacity < stuffed.length →
        ∃ t, exec (.rxReply reply) s = .next t ∧
          { t with tx := s.tx, txLen := s.txLen, freeCount := s.freeCount } = { s with out := .code .overflow } ∧
          t.txLen ≤ s.txCapacity ∧ t.tx.dense t.txLen = true))

/-- 60_exceptions.md R218: the abort changes exactly the five registers and hands over its code. -/
def Obligations.RxAbortReturnsToPending : Prop :=
  ∀ (s : State) (code : ErrorCode),
    exec (.rxAbort code) s = .next
      { s with
        state := .pending, need := 0, timerStart := 0, intake := [], intakeLen := 0, work := [], workLen := 0,
        out := .code code }

/-- 45_system_ops.md R196, 10_state.md R27: where the operations stop by name. READ's answer longer than its bound is
refused in RX.PENDING and RX.READ_DESTUFF as in READ, and RX.HEADER and RX.COMPLETE pass the refusal on. A byte of `work`
at or beyond `work_len` is a fault: in RX.REPLY without an address and a command, in RX.DISPATCH without a `size` byte or
with fewer than `size + 4` bytes. That such an operation can be invoked directly, on a state that no run reaches, and
faults there is the model's choice (log entries 6 and 11, DESIGN CHOICE). -/
def Obligations.AssemblerStopsByName : Prop :=
  ∀ s : State,
    (∀ now : U32, 1 < (readAnswer 1 s).length → exec (.rxPending now) s = .refused .readOverrun) ∧
    (s.intakeLen + s.need.toNat ≤ s.intakeCapacity → s.need.toNat < (readAnswer s.need.toNat s).length →
      exec .rxReadDestuff s = .refused .readOverrun ∧ exec .rxHeader s = .refused .readOverrun ∧
        exec .rxComplete s = .refused .readOverrun) ∧
    (s.workLen ≤ 2 → exec .rxDispatch s = .fault (.unspecifiedByte .work s.workLen)) ∧
    (∀ size : Byte, workByte s 2 = some size → s.workLen < size.toNat + 4 →
      exec .rxDispatch s = .fault (.unspecifiedByte .work s.workLen)) ∧
    (∀ reply : Reply, s.workLen ≤ 1 → exec (.rxReply reply) s = .fault (.unspecifiedByte .work s.workLen))

/-! ### The timeout supervisor -/

/-- 42_timeout.md R142, R143, R144: TMR.ARM and TMR.DISARM write `timer_start` and nothing else; the timer is then armed
exactly if the sample was not 0, and disarmed. TMR.CHECK: an inactive timer never expires; an armed one expires exactly
if the elapsed time, by the source's formula, is strictly above `timeout_ms`; nothing is written. `MAX_U32` =
`0xFFFFFFFF` is log entry 20 (PRESUMED), the formula kept as written log entry 19 (DEDUCED). -/
def Obligations.TimerOperations : Prop :=
  ∀ (s : State) (now : U32),
    (exec (.tmrArm now) s = .next { s with timerStart := now, out := .nothing } ∧
      (timerArmed { s with timerStart := now, out := .nothing } = true ↔ now ≠ 0) ∧
      exec .tmrDisarm s = .next { s with timerStart := 0, out := .nothing } ∧
      timerArmed { s with timerStart := 0, out := .nothing } = false) ∧
    (s.timerStart = 0 → exec (.tmrCheck now) s = .next { s with out := .expired false }) ∧
    (s.timerStart ≠ 0 → s.timerStart.toNat ≤ now.toNat → exec (.tmrCheck now) s = .next
      { s with out := .expired (decide (s.timeoutMs.toNat < now.toNat - s.timerStart.toNat)) }) ∧
    (s.timerStart ≠ 0 → now.toNat < s.timerStart.toNat → exec (.tmrCheck now) s = .next
      { s with out := .expired (decide (s.timeoutMs.toNat < 0xFFFFFFFF - s.timerStart.toNat + now.toNat)) })

/-- 42_timeout.md R145, an inference the spec marks as its own, with R143: the elapsed time of an armed timer is at most
`MAX_U32`, at most `MAX_U32 - 1` in the wrap branch, and there it is one less than the true distance modulo 2^32; without
a wrap it is that distance. So a `timeout_ms` of `0xFFFFFFFF` never expires. That the formula is kept across the wrap is
log entry 19 (DEDUCED, conflict C7), and the value of `MAX_U32` is log entry 20 (PRESUMED). -/
def Obligations.ElapsedTimeAcrossTheWrap : Prop :=
  (∀ start now : U32, start ≠ 0 →
    (start.toNat ≤ now.toNat → elapsed start now = (now - start).toNat ∧ elapsed start now ≤ 0xFFFFFFFF) ∧
    (now.toNat < start.toNat → elapsed start now + 1 = (now - start).toNat ∧ elapsed start now ≤ 0xFFFFFFFE)) ∧
  (∀ (s : State) (now : U32), s.timeoutMs = 0xFFFFFFFF → expired now s = false)

/-! ### The CRC engine -/

/-- 40_crc8.md R111: CRC.BUILD_TABLE writes the table and nothing else; entry 0 is 0, entry 1 is the polynomial, each
entry is eight MSB-first steps from its index, and a second run gives the same table. The eight steps are the spec's
general knowledge G1 (log entry 20, PRESUMED). -/
def Obligations.BuildTableWritesTheTable : Prop :=
  ∀ (s : State) (polynomial : Byte), ∃ table : Vector Byte 256,
    exec (.crcBuildTable polynomial) s = .next { s with crcTable := table, out := .nothing } ∧
    table[0] = 0 ∧ table[1] = polynomial ∧
    (∀ i : Byte, table[i.toNat] =
      (fun c : Byte => if c.getLsbD 7 then (c <<< 1) ^^^ polynomial else c <<< 1)^[8] i) ∧
    exec (.crcBuildTable polynomial) { s with crcTable := table, out := .nothing } =
      .next { s with crcTable := table, out := .nothing }

/-- 40_crc8.md R117, R119: the 256 values listed there, and the two check values over "123456789". The table is the spec's
own computation and the check values its general knowledge (G1, G2, G5); the model takes the construction of both from
there (log entry 20, PRESUMED). -/
def Obligations.CrcTableAndCheckValues : Prop :=
  fold State.reset.crcTable [0x31, 0x32, 0x33, 0x34, 0x35, 0x36, 0x37, 0x38, 0x39] 0xFF = 0xF7 ∧
  fold State.reset.crcTable [0x31, 0x32, 0x33, 0x34, 0x35, 0x36, 0x37, 0x38, 0x39] 0x00 = 0xA2 ∧
  State.reset.crcTable.toList =
    [0x00, 0x31, 0x62, 0x53, 0xC4, 0xF5, 0xA6, 0x97, 0xB9, 0x88, 0xDB, 0xEA, 0x7D, 0x4C, 0x1F, 0x2E] ++
    [0x43, 0x72, 0x21, 0x10, 0x87, 0xB6, 0xE5, 0xD4, 0xFA, 0xCB, 0x98, 0xA9, 0x3E, 0x0F, 0x5C, 0x6D] ++
    [0x86, 0xB7, 0xE4, 0xD5, 0x42, 0x73, 0x20, 0x11, 0x3F, 0x0E, 0x5D, 0x6C, 0xFB, 0xCA, 0x99, 0xA8] ++
    [0xC5, 0xF4, 0xA7, 0x96, 0x01, 0x30, 0x63, 0x52, 0x7C, 0x4D, 0x1E, 0x2F, 0xB8, 0x89, 0xDA, 0xEB] ++
    [0x3D, 0x0C, 0x5F, 0x6E, 0xF9, 0xC8, 0x9B, 0xAA, 0x84, 0xB5, 0xE6, 0xD7, 0x40, 0x71, 0x22, 0x13] ++
    [0x7E, 0x4F, 0x1C, 0x2D, 0xBA, 0x8B, 0xD8, 0xE9, 0xC7, 0xF6, 0xA5, 0x94, 0x03, 0x32, 0x61, 0x50] ++
    [0xBB, 0x8A, 0xD9, 0xE8, 0x7F, 0x4E, 0x1D, 0x2C, 0x02, 0x33, 0x60, 0x51, 0xC6, 0xF7, 0xA4, 0x95] ++
    [0xF8, 0xC9, 0x9A, 0xAB, 0x3C, 0x0D, 0x5E, 0x6F, 0x41, 0x70, 0x23, 0x12, 0x85, 0xB4, 0xE7, 0xD6] ++
    [0x7A, 0x4B, 0x18, 0x29, 0xBE, 0x8F, 0xDC, 0xED, 0xC3, 0xF2, 0xA1, 0x90, 0x07, 0x36, 0x65, 0x54] ++
    [0x39, 0x08, 0x5B, 0x6A, 0xFD, 0xCC, 0x9F, 0xAE, 0x80, 0xB1, 0xE2, 0xD3, 0x44, 0x75, 0x26, 0x17] ++
    [0xFC, 0xCD, 0x9E, 0xAF, 0x38, 0x09, 0x5A, 0x6B, 0x45, 0x74, 0x27, 0x16, 0x81, 0xB0, 0xE3, 0xD2] ++
    [0xBF, 0x8E, 0xDD, 0xEC, 0x7B, 0x4A, 0x19, 0x28, 0x06, 0x37, 0x64, 0x55, 0xC2, 0xF3, 0xA0, 0x91] ++
    [0x47, 0x76, 0x25, 0x14, 0x83, 0xB2, 0xE1, 0xD0, 0xFE, 0xCF, 0x9C, 0xAD, 0x3A, 0x0B, 0x58, 0x69] ++
    [0x04, 0x35, 0x66, 0x57, 0xC0, 0xF1, 0xA2, 0x93, 0xBD, 0x8C, 0xDF, 0xEE, 0x79, 0x48, 0x1B, 0x2A] ++
    [0xC1, 0xF0, 0xA3, 0x92, 0x05, 0x34, 0x67, 0x56, 0x78, 0x49, 0x1A, 0x2B, 0xBC, 0x8D, 0xDE, 0xEF] ++
    [0x82, 0xB3, 0xE0, 0xD1, 0x46, 0x77, 0x24, 0x15, 0x3B, 0x0A, 0x59, 0x68, 0xFF, 0xCE, 0x9D, 0xAC]

/-- 40_crc8.md R112, R113, R114, R115: FOLD, SEED, GEN and CHECK hand over what the table-driven fold gives and write
nothing; GEN reads the first `size` bytes of its payload, and where there are fewer it hands over some byte, a free value
that takes the counter of free values one on (the model's choice, log entry 29: R114 states no result); with the table of this hardware the seed is `0x47`. The step
`c <- table[c XOR b]`, and with it the value `0x47`, is the spec's general knowledge G2 (log entry 20, PRESUMED). -/
def Obligations.CrcOperationsFoldTheTable : Prop :=
  ∀ s : State,
    let step (c b : Byte) : Byte := s.crcTable[(c ^^^ b).toNat]
    let start : Byte := s.crcTable[0xC0]
    (s.crcTable = buildTable 0x31 → start = 0x47) ∧
    (∀ (data : List Byte) (c : Byte),
      exec (.crcFold data c) s = .next { s with out := .byte (data.foldl step c) }) ∧
    exec .crcSeed s = .next { s with out := .byte start } ∧
    (∀ (address command size : Byte) (payload : List Byte), size.toNat ≤ payload.length →
      exec (.crcGen address command size payload) s = .next
        { s with out := .byte (([address, command, size] ++ payload.take size.toNat).foldl step start) }) ∧
    (∀ (address command size : Byte) (payload : List Byte), payload.length < size.toNat →
      ∃ v : Byte, exec (.crcGen address command size payload) s = .next
        { s with freeCount := s.freeCount + 1, out := .byte v }) ∧
    (∀ frame : List Byte,
      exec (.crcCheck frame) s = .next { s with out := .valid (decide (frame.foldl step start = 0)) })

/-- 40_crc8.md R116, laws the spec derives: the four laws of fold: empty, concatenation with its consequence for the seed,
self-check with its consequence for CRC.CHECK and CRC.GEN, and the converse, which rests on the table being a
permutation. All of them are about the step and the table of log entry 20 (PRESUMED: G1, G2, G6). -/
def Obligations.FoldLaws : Prop :=
  let table := buildTable 0x31
  (∀ c, fold table [] c = c) ∧
  (∀ as bs c, fold table (as ++ bs) c = fold table bs (fold table as c)) ∧
  (∀ bs, fold table bs 0x47 = fold table (0xC0 :: bs) 0) ∧
  (∀ ds c, fold table (ds ++ [fold table ds c]) c = 0) ∧
  (∀ (address command size : Byte) (payload : List Byte) (crc : Byte),
    check table ([address, command, size] ++ payload ++ [crc]) = true ↔ crc = gen table address command size payload) ∧
  (∀ x y : Byte, table[x.toNat] = table[y.toNat] → x = y) ∧
  (∀ ds c k, fold table (ds ++ [k]) c = 0 ↔ k = fold table ds c)

/-- 40_crc8.md R120, 60_exceptions.md R225: a change confined to one decoded byte always changes the fold, so of two frames that
differ in one byte at most one passes CRC.CHECK. The step and the table are log entry 20 (PRESUMED). -/
def Obligations.OneByteChangeIsDetected : Prop :=
  ∀ (before after : List Byte) (b b' : Byte) (c : Byte), b ≠ b' →
    fold (buildTable 0x31) (before ++ b :: after) c ≠ fold (buildTable 0x31) (before ++ b' :: after) c

/-! ### The byte-stuffing codec -/

/-- 41_stuffing.md R126: STUFF copies byte 0 verbatim and maps every later byte; it writes nothing; its output is as
long as its input plus one per escaped byte. -/
def Obligations.StuffEscapesAllButByteZero : Prop :=
  ∀ s : State,
    exec (.stuff []) s = .next { s with out := .bytes [] } ∧
    ∀ (b : Byte) (rest : List Byte), ∃ out : List Byte,
      exec (.stuff (b :: rest)) s = .next { s with out := .bytes (b :: out) } ∧
      out = (rest.flatMap fun x =>
        if x = 0xC0 then [0xDB, 0xDC] else if x = 0xDB then [0xDB, 0xDD] else [x]) ∧
      out.length = rest.length + rest.countP fun x => x = 0xC0 || x = 0xDB

/-- 41_stuffing.md R131 law 2: after byte 0 a stuffed stream holds no raw preamble, and an escape byte stands there only before a
marker. -/
def Obligations.StuffedTailHasNoRawReservedByte : Prop :=
  ∀ (b : Byte) (rest : List Byte) (k : Nat),
    (stuffBytes (b :: rest))[k + 1]? ≠ some 0xC0 ∧
    ((stuffBytes (b :: rest))[k + 1]? = some 0xDB →
      (stuffBytes (b :: rest))[k + 2]? = some 0xDC ∨ (stuffBytes (b :: rest))[k + 2]? = some 0xDD)

/-- 41_stuffing.md R127, R128: DESTUFF, symbol by symbol from the left: what it hands over for each first symbol, the marker tested
before the capacity; it writes nothing. -/
def Obligations.DestuffReadsSymbolsLeftToRight : Prop :=
  ∀ (s : State) (rest : List Byte) (k : Nat),
    (∀ (bs : List Byte), exec (.destuff bs k) s = .next { s with out := .destuffed (destuffBytes bs k) }) ∧
    destuffBytes [] k = .ok [] ∧
    destuffBytes [0xDB] k = .fail .incomplete ∧
    (∀ m : Byte, m ≠ 0xDC → m ≠ 0xDD → destuffBytes (0xDB :: m :: rest) k = .fail .badMarker) ∧
    destuffBytes (0xDB :: 0xDC :: rest) 0 = .fail .capacity ∧
    destuffBytes (0xDB :: 0xDD :: rest) 0 = .fail .capacity ∧
    (∀ b : Byte, b ≠ 0xDB → destuffBytes (b :: rest) 0 = .fail .capacity) ∧
    destuffBytes (0xDB :: 0xDC :: rest) (k + 1) = (destuffBytes rest k).cons 0xC0 ∧
    destuffBytes (0xDB :: 0xDD :: rest) (k + 1) = (destuffBytes rest k).cons 0xDB ∧
    (∀ b : Byte, b ≠ 0xDB → destuffBytes (b :: rest) (k + 1) = (destuffBytes rest k).cons b)

/-- 41_stuffing.md R131 law 4: with room for it, DESTUFF undoes STUFF of a whole sequence exactly if the sequence is empty or does
not begin with the escape byte. -/
def Obligations.WholeRoundTripDomain : Prop :=
  ∀ (p : List Byte) (k : Nat), p.length ≤ k →
    (destuffBytes (stuffBytes p) k = .ok p ↔ p = [] ∨ p.head? ≠ some 0xDB)

/-- 41_stuffing.md R131 law 5: destuffing in two pieces gives what destuffing the whole gives, when the first piece decodes. -/
def Obligations.DestuffInPieces : Prop :=
  ∀ (as bs d : List Byte) (k : Nat), destuffBytes as k = .ok d →
    destuffBytes (as ++ bs) k =
      match destuffBytes bs (k - d.length) with
      | .ok d' => .ok (d ++ d')
      | .fail kind => .fail kind

/-! ### The platform callbacks -/

/-- 45_system_ops.md R196, 20_memory.md R51: READ hands over the oldest unread bytes, which are then gone, and is refused where the
platform's answer is longer than `max`; without a listed count it delivers some prefix within its bound. -/
def Obligations.ReadConsumesTheOldestBytes : Prop :=
  ∀ (s : State) (max : Nat),
    (∀ (n : Nat) (ns : List Nat), s.counts = n :: ns → (s.rx.take n).length ≤ max →
      exec (.read max) s = .next
        { s with
          rx := s.rx.drop n, counts := ns, out := .bytes (s.rx.take n),
          trace := s.trace ++ [.read max (s.rx.take n)] }) ∧
    (∀ (n : Nat) (ns : List Nat), s.counts = n :: ns → max < (s.rx.take n).length →
      exec (.read max) s = .refused .readOverrun) ∧
    (s.counts = [] → ∃ (new rest : List Byte) (k : Nat), s.rx = new ++ rest ∧ new.length ≤ max ∧
      exec (.read max) s = .next
        { s with rx := rest, freeCount := k, out := .bytes new, trace := s.trace ++ [.read max new] })

/-- 45_system_ops.md R197 to R199: NOW, WRITE and HANDLE hand over the platform's answer, record the event, and change no register of
the engine. -/
def Obligations.CallbacksLeaveTheRegisters : Prop :=
  ∀ s : State,
    (∀ (v : U32) (vs : List U32), s.nows = v :: vs →
      exec .now s = .next { s with nows := vs, out := .sample v, trace := s.trace ++ [.now v] }) ∧
    (s.nows = [] → ∃ v : U32, exec .now s = .next
      { s with freeCount := s.freeCount + 1, out := .sample v, trace := s.trace ++ [.now v] }) ∧
    (∀ bytes : List Byte, ∃ (written k : Nat), exec (.write bytes) s = .next
      { s with
        writtens := s.writtens.tail, freeCount := k, out := .count written,
        trace := s.trace ++ [.write bytes written] }) ∧
    (∀ (cmd : Byte) (data : List Byte) (size : Nat) (r : Reply) (rs : List Reply), s.replies = r :: rs →
      exec (.handle cmd data size) s = .next
        { s with replies := rs, out := .reply r, trace := s.trace ++ [.handle cmd data size r] }) ∧
    (∀ (cmd : Byte) (data : List Byte) (size : Nat), s.replies = [] → ∃ r : Reply, replyKept r ∧
      exec (.handle cmd data size) s = .next
        { s with
          freeCount := s.freeCount + 1, out := .reply r, trace := s.trace ++ [.handle cmd data size r] })

/-! ### Wire symbols and frames -/

/-- 30_encoding.md R83, R85, 43_frame_assembler.md R153, R154: symbols met in `Pending`. A raw preamble starts a frame. Any
other byte, of whatever symbol, is discarded with `INVALID_DATA` and changes no register. That a symbol is met through
POLL is the model's choice (log entry 12). -/
def Obligations.SymbolsMetInPending : Prop :=
  ∀ s : State, s.initialised = true → s.state = .pending → s.timerStart = 0 →
    exec .preamble s = .next
      { s with
        state := .headerReceiving, need := 3, timerStart := nowAnswer s, intake := [], intakeLen := 0, work := [],
        workLen := 0, nows := s.nows.tail,
        freeCount := if s.nows.isEmpty then s.freeCount + 1 else s.freeCount, out := .code .none,
        trace := s.trace ++ [.now (nowAnswer s), .read 1 [0xC0], .returned .none] } ∧
    ∀ i : Instr, ((∃ b : Byte, b ≠ 0xC0 ∧ i = .literal b) ∨ i = .escPreamble ∨ i = .escEsc ∨
        ∃ m : Byte, m ≠ 0xC0 ∧ i = .escIllegal m) →
      ∃ t, exec i s = .next t ∧ t.out = .code .invalidData ∧
        { t with nows := s.nows, freeCount := s.freeCount, out := s.out, trace := s.trace } = s

/-- 30_encoding.md R85, 41_stuffing.md R127: in a receiving state, with no byte withheld and more than one byte missing,
where none of the clock answers that its POLLs take (one for each raw byte) expires the timer, a literal decodes to
itself, `0xDB 0xDC` to `0xC0` and `0xDB 0xDD` to `0xDB`: the byte is appended to `work` and `need` falls by one. That a
symbol is met through POLL is the model's choice (log entry 12). -/
def Obligations.SymbolsDecodeIntoWork : Prop :=
  ∀ (s : State) (ws : List Byte), Invariants s → s.state ≠ .pending → s.intakeLen = 0 → 2 ≤ s.need.toNat →
    s.need.toNat + 1 ≤ s.intakeCapacity → s.work = Memory.ofBytes ws →
    ∀ (i : Instr) (v : Byte) (n : Nat),
      ((∃ b : Byte, b ≠ 0xC0 ∧ b ≠ 0xDB ∧ i = .literal b ∧ v = b ∧ n = 1) ∨ (i = .escPreamble ∧ v = 0xC0 ∧ n = 2) ∨
        (i = .escEsc ∧ v = 0xDB ∧ n = 2)) →
      deadlineKept n s.timerStart s →
      ∃ t, exec i s = .next t ∧ t.work = Memory.ofBytes (ws ++ [v]) ∧ t.workLen = ws.length + 1 ∧
        t.need.toNat + 1 = s.need.toNat ∧ t.state = s.state ∧ t.timerStart = s.timerStart ∧ t.intakeLen = 0 ∧
        t.tx = s.tx ∧ t.txLen = s.txLen ∧ t.crcTable = s.crcTable ∧ t.rx = s.rx ∧ t.out = .code .none

/-- 30_encoding.md R85, 41_stuffing.md R128, 43_frame_assembler.md R157, R159: in a receiving state, with no byte withheld
and none of the clock answers that its POLLs take (one for each raw byte) expiring the timer, an escape byte with an
illegal marker, and a raw preamble, are `INVALID_DATA` with the abort; `tx` and the transport stay. That a symbol is met
through POLL is the model's choice (log entry 12). -/
def Obligations.IllegalSymbolsAbort : Prop :=
  ∀ s : State, Invariants s → s.state ≠ .pending → s.intakeLen = 0 → s.need.toNat + 1 ≤ s.intakeCapacity →
    ∀ (i : Instr) (n : Nat),
      ((∃ m : Byte, m ≠ 0xDC ∧ m ≠ 0xDD ∧ i = .escIllegal m ∧ n = 2) ∨ (i = .preamble ∧ n = 1)) →
      deadlineKept n s.timerStart s →
      ∃ t, exec i s = .next t ∧ t.out = .code .invalidData ∧ t.state = .pending ∧ t.need = 0 ∧ t.timerStart = 0 ∧
        t.intakeLen = 0 ∧ t.workLen = 0 ∧ t.tx = s.tx ∧ t.txLen = s.txLen ∧ t.crcTable = s.crcTable ∧ t.rx = s.rx

/-- 30_encoding.md R81, R88, R90, 43_frame_assembler.md R160 to R162: a decoded frame is dispatched from `work`; a
well-formed one that the filter accepts and the handler does not answer is handed over; one with payload bytes missing
waits for them; a `size` above 252, or more bytes than `work` holds (20_memory.md R56), aborts. That a decoded frame is
met so is the model's choice (log entry 13). -/
def Obligations.DecodedFrameIsDispatched : Prop :=
  ∀ (s : State) (f : Frame),
    (f.wellFormed = true → s.crcTable = buildTable 0x31 → accepts s.ownAddress f.address = true →
      nonEmptyReply (handleAnswer s) = false →
      exec (.frm f) s = .next
        { s with
          work := Memory.ofBytes (frameBytes f), workLen := f.size.toNat + 4, state := .pending, need := 0,
          timerStart := 0, replies := s.replies.tail,
          freeCount := if s.replies.isEmpty then s.freeCount + 1 else s.freeCount, out := .code .none,
          trace := s.trace ++ [.handle f.command f.payload f.size.toNat (handleAnswer s)] }) ∧
    (f.size.toNat ≤ 252 → f.size.toNat ≤ f.payload.length → f.payload.length ≤ 252 → exec (.frm f) s = exec .rxDispatch
      { s with work := Memory.ofBytes (frameBytes f), workLen := f.payload.length + 4 }) ∧
    (f.size.toNat ≤ 252 → f.payload.length < f.size.toNat → exec (.frm f) s = .next
      { s with
        work := Memory.ofBytes (frameBytes f), workLen := f.payload.length + 4, state := .completeReceiving,
        need := BitVec.ofNat 8 (f.size.toNat - f.payload.length), out := .code .none }) ∧
    (252 < f.size.toNat ∨ 252 < f.payload.length → exec (.frm f) s = .next
      { s with
        state := .pending, need := 0, timerStart := 0, intake := [], intakeLen := 0, work := [], workLen := 0,
        out := .code .invalidData })

/-- 43_frame_assembler.md R167, 44_transmit.md R192: an encoded frame met byte by byte in `Pending`, where none of the clock
answers that its POLLs take (one for each byte on the wire) expires the timer armed by the first of them, is delivered
whole: every POLL returns `NONE`, HANDLE is invoked once, at the end, with the frame's command, payload and size, and the
engine is back in `Pending`. That the stream is met one byte per POLL is the model's choice (log entry 13). -/
def Obligations.EncodedFrameIsDelivered : Prop :=
  ∀ (s : State) (f : Frame) (r : Reply) (rs : List Reply), Invariants s → s.state = .pending → f.wellFormed = true →
    254 ≤ s.intakeCapacity → deadlineKept (encodedBytes f).length (nowAnswer s) s →
    accepts s.ownAddress f.address = true → s.replies = r :: rs → nonEmptyReply r = false →
    ∃ (t : State) (before : List Event), exec (.enc f) s = .next t ∧
      t.state = .pending ∧ t.need = 0 ∧ t.timerStart = 0 ∧ t.intakeLen = 0 ∧
      t.work = Memory.ofBytes (frameBytes f) ∧ t.workLen = f.size.toNat + 4 ∧ t.tx = s.tx ∧ t.txLen = s.txLen ∧
      t.rx = s.rx ∧ t.replies = rs ∧ t.out = .code .none ∧
      t.trace = s.trace ++ before ++ [.handle f.command f.payload f.size.toNat r, .returned .none] ∧
      (∀ v ∈ before, (∃ n, v = .now n) ∨ (∃ max bytes, v = .read max bytes) ∨ v = .returned .none)

/-- 44_transmit.md R192, 41_stuffing.md R131: what one engine's CALL writes, met by another engine in `Pending` whose filter accepts the
address, is handed to that engine's handler with the same command and payload, where none of the clock answers that the
receiver's POLLs take (one for each byte on the wire) expires the timer armed by the first of them. That the stream is
met one byte per POLL is the model's choice (log entry 13). -/
def Obligations.CallLoopbackIsDelivered : Prop :=
  ∀ (a b : State) (address command : Byte) (size : Nat) (data : List Byte) (r : Reply) (rs : List Reply),
    Invariants a → a.state = .pending → size ≤ 252 → size ≤ data.length → 512 ≤ a.txCapacity →
    Invariants b → b.state = .pending → 254 ≤ b.intakeCapacity →
    deadlineKept (encodedBytes (buildFrame a.crcTable address command (data.take size))).length (nowAnswer b) b →
    accepts b.ownAddress address = true → b.replies = r :: rs → nonEmptyReply r = false →
    ∃ (a' : State) (wire : List Byte) (n : Nat) (b' : State) (before : List Event),
      exec (.call address command size data) a = .next a' ∧
      a'.trace = a.trace ++ [.write wire n, .returned .none] ∧
      meetBytes wire b = .next b' ∧
      b'.trace = b.trace ++ before ++ [.handle command (data.take size) size r, .returned .none] ∧
      b'.state = .pending

/-! ### Codes -/

/-- 30_encoding.md R92: each error code, as `return E`, stands on the result port with its byte and is returned to the host; nothing
else changes. That a code row is `return E` is the model's choice (log entry 14). -/
def Obligations.ErrorCodesReachTheResultPort : Prop :=
  ∀ (s : State) (i : Instr) (e : ErrorCode) (byte : Byte),
    (i, e, byte) ∈ [(.codeNone, .none, 0x00), (.codeTimeout, .timeout, 0xFF), (.codeCrc, .crc, 0xFE),
      (.codeInvalidData, .invalidData, 0xFD), (.codeOverflow, .overflow, 0xFC), (.codeBusy, .busy, 0xFB)] →
    exec i s = .next { s with out := .code e, trace := s.trace ++ [.returned e] } ∧ codeByte e = byte ∧
      decode (.result byte) = .ok i

/-- 30_encoding.md R94: each state code, as `state <- S`, writes the state register; `Pending` has `need` at 0. That a state-code
row is `state <- S` is the model's choice (log entry 15). -/
def Obligations.StateCodesWriteTheStateRegister : Prop :=
  ∀ s : State,
    exec .statePending s = .next { s with state := .pending, need := 0, out := .nothing } ∧
    exec .stateHeaderReceiving s = .next { s with state := .headerReceiving, out := .nothing } ∧
    exec .stateCompleteReceiving s = .next { s with state := .completeReceiving, out := .nothing } ∧
    decode (.stateCode 0) = .ok .statePending ∧ decode (.stateCode 1) = .ok .stateHeaderReceiving ∧
    decode (.stateCode 2) = .ok .stateCompleteReceiving ∧ decode (.stateCode 3) = .error .reservedState

/-! ### The machine as a whole -/

/-- 10_state.md R35, R20: the invariants, and the ranges of the buffers, hold of the state after reset. -/
def Obligations.ResetMeetsTheInvariant : Prop := Invariants State.reset ∧ BuffersInRange State.reset

/-- 10_state.md R20, R26, R32, 20_memory.md R50, R55 to R59: every operation, with whatever operands, and every step, on
whatever word, keep each buffer's listed bytes and fill length within its capacity. That operations and words that no host
offers are there at all is the model's choice (log entries 1, 11, 13, 26). -/
def Obligations.BuffersStayInRange : Prop :=
  (∀ (i : Instr) (s t : State), BuffersInRange s → exec i s = .next t → BuffersInRange t) ∧
  (∀ s t : State, BuffersInRange s → step s = .next t → BuffersInRange t)

/-- 10_state.md R35, 70_reset_and_hazards.md R253: INIT establishes the invariants from any state at all whose pending words are lawful. -/
def Obligations.InitEstablishesTheInvariant : Prop :=
  ∀ s t : State, (∀ w ∈ s.port, lawfulWord w = true) → exec .init s = .next t → Invariants t

/-- 10_state.md R35: the invariants hold after every step that the host was entitled to make. -/
def Obligations.StepKeepsTheInvariant : Prop :=
  ∀ s t : State, Invariants s → step s = .next t → Invariants t

/-- 10_state.md R27: no rule reads an unspecified byte: from a state of R35 no step ends in the model's fault. -/
def Obligations.StepReadsNoUnspecifiedByte : Prop :=
  ∀ (s : State) (x : Fault), Invariants s → step s ≠ .fault x

/-- 20_memory.md R58: with `INTAKE_CAPACITY` at least 254, RX.READ_DESTUFF from a state of R35 never ends in `OVERFLOW`. -/
def Obligations.IntakeNeverOverflowsAtTheDefault : Prop :=
  ∀ s t : State, Invariants s → 254 ≤ s.intakeCapacity → exec .rxReadDestuff s = .next t → t.out ≠ .code .overflow

/-- 30_encoding.md §2, §5, §7, 00_scope.md R19: a step runs the decoded operation without its word, whatever its operands;
with no word pending nothing happens. A word that decodes to no operation: bytes of the link are met one after the other
(R85, R90); decoded bytes are an incomplete header, an oversized frame, a frame with bytes missing, a frame with bytes
after it (R89, R90), or more than `work` holds (20_memory.md R56); a reserved select, state code or result byte is refused
(R93, R94, R92; U15). The port, and what is made of such words, are the model's choice (log entries 1, 13, 26, 28). -/
def Obligations.StepRunsTheDecodedOperation : Prop :=
  (∀ (s : State) (w : PortWord) (rest : List PortWord) (i : Instr), s.port = w :: rest → decode w = .ok i →
    step s = exec i { s with port := rest }) ∧
  (∀ s : State, s.port = [] → step s = .next s) ∧
  (∀ (s : State) (w : PortWord) (rest : List PortWord) (e : DecodeError), s.port = w :: rest → decode w = .error e →
    let u : State := { s with port := rest }
    ((∃ sel address command size data, w = .op sel address command size data) ∨ (∃ code, w = .result code) ∨
      (∃ code, w = .stateCode code) → step s = .refused (.undecodable e)) ∧
    (∀ bytes : List Byte, w = .wire bytes ∨ w = .encoded bytes → step s = meetBytes bytes u) ∧
    (∀ bytes : List Byte, w = .frame bytes →
      let v : State := { u with work := Memory.ofBytes bytes, workLen := bytes.length }
      (bytes.length < 3 → step s = .next
        { v with state := .headerReceiving, need := BitVec.ofNat 8 (3 - bytes.length), out := .code .none }) ∧
      (∀ size : Byte, bytes[2]? = some size →
        (252 < size.toNat → step s = exec (.rxAbort .invalidData) u) ∧
        (size.toNat ≤ 252 → bytes.length < 3 + size.toNat + 1 → step s = .next
          { v with
            state := .completeReceiving, need := BitVec.ofNat 8 (3 + size.toNat + 1 - bytes.length),
            out := .code .none }) ∧
        (size.toNat ≤ 252 → 3 + size.toNat + 1 ≤ bytes.length → bytes.length ≤ 256 → step s = exec .rxDispatch v)) ∧
      (256 < bytes.length → step s = exec (.rxAbort .invalidData) u)))

/-- 30_encoding.md R85, R92, R93: a few words written out from the encodings decode to their operations, and the reserved select
to none. -/
def Obligations.TableWordsDecode : Prop :=
  decodeTableWord 8 0b00 = some .init ∧ decodeTableWord 8 0b01 = some .poll ∧
  decodeTableWord 8 0b10 = some (.call 0 0 0 []) ∧ decodeTableWord 8 0b11 = none ∧
  decodeTableWord 8 0xC0 = some .preamble ∧ decodeTableWord 16 0xDBDC = some .escPreamble ∧
  decodeTableWord 16 0xDBDD = some .escEsc ∧ decodeTableWord 16 0xDB00 = some (.escIllegal 0) ∧
  decodeTableWord 8 0x41 = some (.literal 0x41) ∧ decodeTableWord 8 0xFF = some .codeTimeout

/-- 30_encoding.md R80 to R94: what the encoder writes for a well-formed operation, in whatever encoding space, decodes
to that operation with every operand. -/
def Obligations.DecodeUndoesEncode : Prop :=
  ∀ i : Instr, wellFormed i = true → ∀ w, encode i = some w → decode w = .ok i
end

