-- ==== Sys2Proof/Laws/Codec.lean ====
section
/-! SUPPORT. The small laws of the byte-stuffing codec and the frame layouts. -/

namespace Sys2Proof.Machine

@[simp] theorem stuffTail_nil : stuffTail [] = [] := rfl

theorem stuffTail_cons (b : Byte) (bs : List Byte) : stuffTail (b :: bs) = stuffByte b ++ stuffTail bs := rfl

theorem stuffTail_append (as bs : List Byte) : stuffTail (as ++ bs) = stuffTail as ++ stuffTail bs := by
  induction as with
  | nil => rfl
  | cons a as ih => simp [stuffTail_cons, ih]

theorem encodedBytes_eq (f : Frame) : encodedBytes f = Config.preamble :: stuffTail (frameBytes f) := rfl

/-- The three forms of a stuffed byte. -/
theorem stuffByte_cases (b : Byte) :
    (b = Config.preamble ∧ stuffByte b = [Config.esc, Config.markA]) ∨
    (b = Config.esc ∧ stuffByte b = [Config.esc, Config.markB]) ∨
    (b ≠ Config.preamble ∧ b ≠ Config.esc ∧ stuffByte b = [b]) := by
  unfold stuffByte
  by_cases h1 : b = Config.preamble
  · exact .inl ⟨h1, if_pos h1⟩
  · by_cases h2 : b = Config.esc
    · exact .inr (.inl ⟨h2, by rw [if_neg h1, if_pos h2]⟩)
    · exact .inr (.inr ⟨h1, h2, by rw [if_neg h1, if_neg h2]⟩)

/-- No stuffed byte is a raw preamble. -/
theorem preamble_not_mem_stuffByte (b : Byte) : Config.preamble ∉ stuffByte b := by
  rcases stuffByte_cases b with ⟨-, h⟩ | ⟨-, h⟩ | ⟨h1, -, h⟩ <;> rw [h]
  · decide
  · decide
  · simpa using Ne.symm h1

theorem preamble_not_mem_stuffTail (bs : List Byte) : Config.preamble ∉ stuffTail bs := by
  induction bs with
  | nil => simp
  | cons b bs ih => simp [stuffTail_cons, preamble_not_mem_stuffByte, ih]

/-! ### DESTUFF, one symbol at a time -/

@[simp] theorem destuffBytes_nil (k : Nat) : destuffBytes [] k = .ok [] := by
  unfold destuffBytes; rfl

/-- A literal at the head. -/
theorem destuffBytes_literal (b : Byte) (rest : List Byte) (k : Nat) (h : b ≠ Config.esc) :
    destuffBytes (b :: rest) (k + 1) = .cons b (destuffBytes rest k) := by
  cases rest with
  | nil => simp [destuffBytes, h, DestuffResult.cons]
  | cons m rest => simp [destuffBytes, h]

/-- An escape pair at the head. -/
theorem destuffBytes_pair (m v : Byte) (rest : List Byte) (k : Nat) (h : unescape m = some v) :
    destuffBytes (Config.esc :: m :: rest) (k + 1) = .cons v (destuffBytes rest k) := by
  simp [destuffBytes, h]

/-- A bad marker at the head. -/
theorem destuffBytes_badMarker (m : Byte) (rest : List Byte) (k : Nat) (h : unescape m = none) :
    destuffBytes (Config.esc :: m :: rest) k = .fail .badMarker := by
  simp [destuffBytes, h]

/-- Nothing fits into no room, and the marker is tested first. -/
theorem destuffBytes_zero (b : Byte) (rest : List Byte) : ∃ kind, destuffBytes (b :: rest) 0 = .fail kind := by
  cases rest with
  | nil => by_cases h : b = Config.esc <;> simp [destuffBytes, h]
  | cons m rest =>
    by_cases h : b = Config.esc
    · cases hu : unescape m <;> simp [destuffBytes, h, hu]
    · simp [destuffBytes, h]

theorem DestuffResult.cons_eq_ok {v : Byte} {r : DestuffResult} {out : List Byte} (h : r.cons v = .ok out) :
    ∃ rest, r = .ok rest ∧ out = v :: rest := by
  cases r with
  | ok d => exact ⟨d, rfl, by simpa [DestuffResult.cons, eq_comm] using h⟩
  | fail k => simp [DestuffResult.cons] at h

/-- What a successful DESTUFF did with its first symbol. -/
theorem destuffBytes_ok_cases {b : Byte} {rest out : List Byte} {k : Nat} (h : destuffBytes (b :: rest) k = .ok out) :
    ∃ j, k = j + 1 ∧
      ((b ≠ Config.esc ∧ ∃ d, destuffBytes rest j = .ok d ∧ out = b :: d) ∨
       (b = Config.esc ∧ ∃ m rest' v d, rest = m :: rest' ∧ unescape m = some v ∧ destuffBytes rest' j = .ok d ∧
          out = v :: d)) := by
  cases k with
  | zero => obtain ⟨kind, hk⟩ := destuffBytes_zero b rest; rw [hk] at h; cases h
  | succ j =>
    refine ⟨j, rfl, ?_⟩
    by_cases hb : b = Config.esc
    · subst hb
      refine .inr ⟨rfl, ?_⟩
      cases rest with
      | nil => simp [destuffBytes] at h
      | cons m rest' =>
        cases hu : unescape m with
        | none => rw [destuffBytes_badMarker m rest' _ hu] at h; cases h
        | some v =>
          rw [destuffBytes_pair m v rest' j hu] at h
          obtain ⟨d, hd, ho⟩ := DestuffResult.cons_eq_ok h
          exact ⟨m, rest', v, d, rfl, hu, hd, ho⟩
    · rw [destuffBytes_literal b rest j hb] at h
      obtain ⟨d, hd, ho⟩ := DestuffResult.cons_eq_ok h
      exact .inl ⟨hb, d, hd, ho⟩

/-- A successful DESTUFF yields at most one byte for each byte of input, and no more than its room. -/
theorem destuffBytes_length_le (bs : List Byte) : ∀ {k : Nat} {out : List Byte}, destuffBytes bs k = .ok out →
    out.length ≤ bs.length ∧ out.length ≤ k := by
  induction bs using List.twoStepInduction with
  | nil =>
    intro k out h
    simp only [destuffBytes_nil, DestuffResult.ok.injEq] at h
    simp [← h]
  | singleton b =>
    intro k out h
    obtain ⟨j, rfl, ⟨-, d, hd, rfl⟩ | ⟨-, m, r, v, d, hr, -⟩⟩ := destuffBytes_ok_cases h
    · simp only [destuffBytes_nil, DestuffResult.ok.injEq] at hd
      simp [← hd]
    · cases hr
  | cons_cons b m rest ih1 ih2 =>
    intro k out h
    obtain ⟨j, rfl, ⟨-, d, hd, rfl⟩ | ⟨-, m', r, v, d, hr, -, hd, rfl⟩⟩ := destuffBytes_ok_cases h
    · have := ih2 m hd
      simp only [List.length_cons] at *
      omega
    · cases hr
      have := ih1 hd
      simp only [List.length_cons] at *
      omega

/-- Where the input begins with an escape byte, one byte fewer. -/
theorem destuffBytes_esc_length {rest out : List Byte} {k : Nat}
    (h : destuffBytes (Config.esc :: rest) k = .ok out) : out.length ≤ rest.length := by
  obtain ⟨j, -, ⟨hb, -⟩ | ⟨-, m, r, v, d, rfl, -, hd, rfl⟩⟩ := destuffBytes_ok_cases h
  · exact absurd rfl hb
  · have := (destuffBytes_length_le r hd).1
    simp only [List.length_cons]
    omega

/-- A non-empty input never decodes to nothing (spec/41_stuffing.md R129). -/
theorem destuffBytes_ne_nil {b : Byte} {rest out : List Byte} {k : Nat} (h : destuffBytes (b :: rest) k = .ok out) :
    out ≠ [] := by
  obtain ⟨j, -, ⟨-, d, -, rfl⟩ | ⟨-, m, r, v, d, -, -, -, rfl⟩⟩ := destuffBytes_ok_cases h <;> simp

/-- DESTUFF of the stuffed image of one byte, and then the rest. -/
theorem destuffBytes_stuffByte (b : Byte) (rest : List Byte) (k : Nat) :
    destuffBytes (stuffByte b ++ rest) (k + 1) = .cons b (destuffBytes rest k) := by
  rcases stuffByte_cases b with ⟨rfl, h⟩ | ⟨rfl, h⟩ | ⟨-, h2, h⟩ <;> rw [h]
  · exact destuffBytes_pair _ _ rest k rfl
  · exact destuffBytes_pair _ _ rest k (by decide)
  · exact destuffBytes_literal b rest k h2

/-- The tail round trip: DESTUFF undoes the stuffing of the bytes after the first, given room for them. -/
theorem destuffBytes_stuffTail (bs : List Byte) (k : Nat) (h : bs.length ≤ k) :
    destuffBytes (stuffTail bs) k = .ok bs := by
  induction bs generalizing k with
  | nil => simp
  | cons b bs ih =>
    obtain ⟨j, rfl⟩ : ∃ j, k = j + 1 := ⟨k - 1, by simp only [List.length_cons] at h; omega⟩
    rw [stuffTail_cons, destuffBytes_stuffByte, ih j (by simpa using h)]
    rfl

/-! ### Frames -/

@[simp] theorem frameBytes_length (f : Frame) : (frameBytes f).length = f.payload.length + 4 := by
  simp [frameBytes]

/-- Parsing a frame's bytes gives the frame, where `size` counts the payload. -/
theorem parseFrame_frameBytes (f : Frame) (h : f.payload.length = f.size.toNat) :
    parseFrame (frameBytes f) = some f := by
  obtain ⟨a, c, z, p, k⟩ := f
  simp only at h
  simp only [frameBytes, parseFrame, List.length_append, List.length_singleton, h, if_true]
  rw [← h]
  simp

/-- The bytes of a parsed frame are the bytes it was parsed from. -/
theorem frameBytes_of_parseFrame {bs : List Byte} {f : Frame} (h : parseFrame bs = some f) :
    frameBytes f = bs ∧ f.payload.length = f.size.toNat := by
  match bs, h with
  | a :: c :: z :: rest, h =>
    simp only [parseFrame, Option.ite_none_right_eq_some, Option.some.injEq] at h
    obtain ⟨hl, rfl⟩ := h
    have hne : rest ≠ [] := by intro e; simp [e] at hl
    refine ⟨?_, by simp [hl]⟩
    simp only [frameBytes, List.cons.injEq, true_and]
    rw [List.getLastD_eq_getLast?, List.getLast?_eq_some_getLast hne, Option.getD_some]
    have : z.toNat = rest.length - 1 := by omega
    rw [this, ← List.dropLast_eq_take, List.dropLast_concat_getLast]

end Sys2Proof.Machine
end

