-- ==== Sys2Proof/Laws/Crc.lean ====
section
/-! SUPPORT. The small laws of the CRC engine's arithmetic. -/

namespace Sys2Proof.Machine

/-- An entry of the table a polynomial builds. -/
@[simp] theorem buildTable_get (polynomial x : Byte) : (buildTable polynomial)[x.toNat] = tableEntry polynomial x := by
  simp [buildTable]

@[simp] theorem fold_nil (table : Vector Byte 256) (c : Byte) : fold table [] c = c := rfl

theorem fold_cons (table : Vector Byte 256) (b : Byte) (bs : List Byte) (c : Byte) :
    fold table (b :: bs) c = fold table bs table[(c ^^^ b).toNat] := rfl

/-- Folding in two parts. -/
theorem fold_append (table : Vector Byte 256) (as bs : List Byte) (c : Byte) :
    fold table (as ++ bs) c = fold table bs (fold table as c) := by
  induction as generalizing c with
  | nil => rfl
  | cons a as ih => exact ih _

end Sys2Proof.Machine
end

