-- ==== Sys2Proof/Laws/State.lean ====
section
/-! SUPPORT. What each update of State does to each field: one lemma per field per update. -/

namespace Sys2Proof.Machine

section
variable (bs : List Byte) (s : State)
@[simp] theorem appendIntake_initialised : (appendIntake bs s).initialised = s.initialised := rfl
@[simp] theorem appendIntake_state : (appendIntake bs s).state = s.state := rfl
@[simp] theorem appendIntake_need : (appendIntake bs s).need = s.need := rfl
@[simp] theorem appendIntake_timerStart : (appendIntake bs s).timerStart = s.timerStart := rfl
@[simp] theorem appendIntake_intake : (appendIntake bs s).intake = s.intake.writeBytes s.intakeLen bs := rfl
@[simp] theorem appendIntake_intakeLen : (appendIntake bs s).intakeLen = s.intakeLen + bs.length := rfl
@[simp] theorem appendIntake_work : (appendIntake bs s).work = s.work := rfl
@[simp] theorem appendIntake_workLen : (appendIntake bs s).workLen = s.workLen := rfl
@[simp] theorem appendIntake_tx : (appendIntake bs s).tx = s.tx := rfl
@[simp] theorem appendIntake_txLen : (appendIntake bs s).txLen = s.txLen := rfl
@[simp] theorem appendIntake_crcTable : (appendIntake bs s).crcTable = s.crcTable := rfl
@[simp] theorem appendIntake_ownAddress : (appendIntake bs s).ownAddress = s.ownAddress := rfl
@[simp] theorem appendIntake_timeoutMs : (appendIntake bs s).timeoutMs = s.timeoutMs := rfl
@[simp] theorem appendIntake_intakeCapacity : (appendIntake bs s).intakeCapacity = s.intakeCapacity := rfl
@[simp] theorem appendIntake_txCapacity : (appendIntake bs s).txCapacity = s.txCapacity := rfl
@[simp] theorem appendIntake_replyHeader : (appendIntake bs s).replyHeader = s.replyHeader := rfl
@[simp] theorem appendIntake_rx : (appendIntake bs s).rx = s.rx := rfl
@[simp] theorem appendIntake_counts : (appendIntake bs s).counts = s.counts := rfl
@[simp] theorem appendIntake_nows : (appendIntake bs s).nows = s.nows := rfl
@[simp] theorem appendIntake_replies : (appendIntake bs s).replies = s.replies := rfl
@[simp] theorem appendIntake_writtens : (appendIntake bs s).writtens = s.writtens := rfl
@[simp] theorem appendIntake_freeCount : (appendIntake bs s).freeCount = s.freeCount := rfl
@[simp] theorem appendIntake_port : (appendIntake bs s).port = s.port := rfl
@[simp] theorem appendIntake_out : (appendIntake bs s).out = s.out := rfl
@[simp] theorem appendIntake_trace : (appendIntake bs s).trace = s.trace := rfl
end

section
variable (bs : List Byte) (s : State)
@[simp] theorem appendWork_initialised : (appendWork bs s).initialised = s.initialised := rfl
@[simp] theorem appendWork_state : (appendWork bs s).state = s.state := rfl
@[simp] theorem appendWork_need : (appendWork bs s).need = s.need := rfl
@[simp] theorem appendWork_timerStart : (appendWork bs s).timerStart = s.timerStart := rfl
@[simp] theorem appendWork_intake : (appendWork bs s).intake = s.intake := rfl
@[simp] theorem appendWork_intakeLen : (appendWork bs s).intakeLen = s.intakeLen := rfl
@[simp] theorem appendWork_work : (appendWork bs s).work = s.work.writeBytes s.workLen bs := rfl
@[simp] theorem appendWork_workLen : (appendWork bs s).workLen = s.workLen + bs.length := rfl
@[simp] theorem appendWork_tx : (appendWork bs s).tx = s.tx := rfl
@[simp] theorem appendWork_txLen : (appendWork bs s).txLen = s.txLen := rfl
@[simp] theorem appendWork_crcTable : (appendWork bs s).crcTable = s.crcTable := rfl
@[simp] theorem appendWork_ownAddress : (appendWork bs s).ownAddress = s.ownAddress := rfl
@[simp] theorem appendWork_timeoutMs : (appendWork bs s).timeoutMs = s.timeoutMs := rfl
@[simp] theorem appendWork_intakeCapacity : (appendWork bs s).intakeCapacity = s.intakeCapacity := rfl
@[simp] theorem appendWork_txCapacity : (appendWork bs s).txCapacity = s.txCapacity := rfl
@[simp] theorem appendWork_replyHeader : (appendWork bs s).replyHeader = s.replyHeader := rfl
@[simp] theorem appendWork_rx : (appendWork bs s).rx = s.rx := rfl
@[simp] theorem appendWork_counts : (appendWork bs s).counts = s.counts := rfl
@[simp] theorem appendWork_nows : (appendWork bs s).nows = s.nows := rfl
@[simp] theorem appendWork_replies : (appendWork bs s).replies = s.replies := rfl
@[simp] theorem appendWork_writtens : (appendWork bs s).writtens = s.writtens := rfl
@[simp] theorem appendWork_freeCount : (appendWork bs s).freeCount = s.freeCount := rfl
@[simp] theorem appendWork_port : (appendWork bs s).port = s.port := rfl
@[simp] theorem appendWork_out : (appendWork bs s).out = s.out := rfl
@[simp] theorem appendWork_trace : (appendWork bs s).trace = s.trace := rfl
end

section
variable (s : State)
@[simp] theorem clearIntake_initialised : (clearIntake s).initialised = s.initialised := rfl
@[simp] theorem clearIntake_state : (clearIntake s).state = s.state := rfl
@[simp] theorem clearIntake_need : (clearIntake s).need = s.need := rfl
@[simp] theorem clearIntake_timerStart : (clearIntake s).timerStart = s.timerStart := rfl
@[simp] theorem clearIntake_intake : (clearIntake s).intake = [] := rfl
@[simp] theorem clearIntake_intakeLen : (clearIntake s).intakeLen = 0 := rfl
@[simp] theorem clearIntake_work : (clearIntake s).work = s.work := rfl
@[simp] theorem clearIntake_workLen : (clearIntake s).workLen = s.workLen := rfl
@[simp] theorem clearIntake_tx : (clearIntake s).tx = s.tx := rfl
@[simp] theorem clearIntake_txLen : (clearIntake s).txLen = s.txLen := rfl
@[simp] theorem clearIntake_crcTable : (clearIntake s).crcTable = s.crcTable := rfl
@[simp] theorem clearIntake_ownAddress : (clearIntake s).ownAddress = s.ownAddress := rfl
@[simp] theorem clearIntake_timeoutMs : (clearIntake s).timeoutMs = s.timeoutMs := rfl
@[simp] theorem clearIntake_intakeCapacity : (clearIntake s).intakeCapacity = s.intakeCapacity := rfl
@[simp] theorem clearIntake_txCapacity : (clearIntake s).txCapacity = s.txCapacity := rfl
@[simp] theorem clearIntake_replyHeader : (clearIntake s).replyHeader = s.replyHeader := rfl
@[simp] theorem clearIntake_rx : (clearIntake s).rx = s.rx := rfl
@[simp] theorem clearIntake_counts : (clearIntake s).counts = s.counts := rfl
@[simp] theorem clearIntake_nows : (clearIntake s).nows = s.nows := rfl
@[simp] theorem clearIntake_replies : (clearIntake s).replies = s.replies := rfl
@[simp] theorem clearIntake_writtens : (clearIntake s).writtens = s.writtens := rfl
@[simp] theorem clearIntake_freeCount : (clearIntake s).freeCount = s.freeCount := rfl
@[simp] theorem clearIntake_port : (clearIntake s).port = s.port := rfl
@[simp] theorem clearIntake_out : (clearIntake s).out = s.out := rfl
@[simp] theorem clearIntake_trace : (clearIntake s).trace = s.trace := rfl
end

section
variable (s : State)
@[simp] theorem clearWork_initialised : (clearWork s).initialised = s.initialised := rfl
@[simp] theorem clearWork_state : (clearWork s).state = s.state := rfl
@[simp] theorem clearWork_need : (clearWork s).need = s.need := rfl
@[simp] theorem clearWork_timerStart : (clearWork s).timerStart = s.timerStart := rfl
@[simp] theorem clearWork_intake : (clearWork s).intake = s.intake := rfl
@[simp] theorem clearWork_intakeLen : (clearWork s).intakeLen = s.intakeLen := rfl
@[simp] theorem clearWork_work : (clearWork s).work = [] := rfl
@[simp] theorem clearWork_workLen : (clearWork s).workLen = 0 := rfl
@[simp] theorem clearWork_tx : (clearWork s).tx = s.tx := rfl
@[simp] theorem clearWork_txLen : (clearWork s).txLen = s.txLen := rfl
@[simp] theorem clearWork_crcTable : (clearWork s).crcTable = s.crcTable := rfl
@[simp] theorem clearWork_ownAddress : (clearWork s).ownAddress = s.ownAddress := rfl
@[simp] theorem clearWork_timeoutMs : (clearWork s).timeoutMs = s.timeoutMs := rfl
@[simp] theorem clearWork_intakeCapacity : (clearWork s).intakeCapacity = s.intakeCapacity := rfl
@[simp] theorem clearWork_txCapacity : (clearWork s).txCapacity = s.txCapacity := rfl
@[simp] theorem clearWork_replyHeader : (clearWork s).replyHeader = s.replyHeader := rfl
@[simp] theorem clearWork_rx : (clearWork s).rx = s.rx := rfl
@[simp] theorem clearWork_counts : (clearWork s).counts = s.counts := rfl
@[simp] theorem clearWork_nows : (clearWork s).nows = s.nows := rfl
@[simp] theorem clearWork_replies : (clearWork s).replies = s.replies := rfl
@[simp] theorem clearWork_writtens : (clearWork s).writtens = s.writtens := rfl
@[simp] theorem clearWork_freeCount : (clearWork s).freeCount = s.freeCount := rfl
@[simp] theorem clearWork_port : (clearWork s).port = s.port := rfl
@[simp] theorem clearWork_out : (clearWork s).out = s.out := rfl
@[simp] theorem clearWork_trace : (clearWork s).trace = s.trace := rfl
end

section
variable (s : State)
@[simp] theorem clearTx_initialised : (clearTx s).initialised = s.initialised := rfl
@[simp] theorem clearTx_state : (clearTx s).state = s.state := rfl
@[simp] theorem clearTx_need : (clearTx s).need = s.need := rfl
@[simp] theorem clearTx_timerStart : (clearTx s).timerStart = s.timerStart := rfl
@[simp] theorem clearTx_intake : (clearTx s).intake = s.intake := rfl
@[simp] theorem clearTx_intakeLen : (clearTx s).intakeLen = s.intakeLen := rfl
@[simp] theorem clearTx_work : (clearTx s).work = s.work := rfl
@[simp] theorem clearTx_workLen : (clearTx s).workLen = s.workLen := rfl
@[simp] theorem clearTx_tx : (clearTx s).tx = [] := rfl
@[simp] theorem clearTx_txLen : (clearTx s).txLen = 0 := rfl
@[simp] theorem clearTx_crcTable : (clearTx s).crcTable = s.crcTable := rfl
@[simp] theorem clearTx_ownAddress : (clearTx s).ownAddress = s.ownAddress := rfl
@[simp] theorem clearTx_timeoutMs : (clearTx s).timeoutMs = s.timeoutMs := rfl
@[simp] theorem clearTx_intakeCapacity : (clearTx s).intakeCapacity = s.intakeCapacity := rfl
@[simp] theorem clearTx_txCapacity : (clearTx s).txCapacity = s.txCapacity := rfl
@[simp] theorem clearTx_replyHeader : (clearTx s).replyHeader = s.replyHeader := rfl
@[simp] theorem clearTx_rx : (clearTx s).rx = s.rx := rfl
@[simp] theorem clearTx_counts : (clearTx s).counts = s.counts := rfl
@[simp] theorem clearTx_nows : (clearTx s).nows = s.nows := rfl
@[simp] theorem clearTx_replies : (clearTx s).replies = s.replies := rfl
@[simp] theorem clearTx_writtens : (clearTx s).writtens = s.writtens := rfl
@[simp] theorem clearTx_freeCount : (clearTx s).freeCount = s.freeCount := rfl
@[simp] theorem clearTx_port : (clearTx s).port = s.port := rfl
@[simp] theorem clearTx_out : (clearTx s).out = s.out := rfl
@[simp] theorem clearTx_trace : (clearTx s).trace = s.trace := rfl
end

section
variable (bs : List Byte) (s : State)
@[simp] theorem setTx_initialised : (setTx bs s).initialised = s.initialised := rfl
@[simp] theorem setTx_state : (setTx bs s).state = s.state := rfl
@[simp] theorem setTx_need : (setTx bs s).need = s.need := rfl
@[simp] theorem setTx_timerStart : (setTx bs s).timerStart = s.timerStart := rfl
@[simp] theorem setTx_intake : (setTx bs s).intake = s.intake := rfl
@[simp] theorem setTx_intakeLen : (setTx bs s).intakeLen = s.intakeLen := rfl
@[simp] theorem setTx_work : (setTx bs s).work = s.work := rfl
@[simp] theorem setTx_workLen : (setTx bs s).workLen = s.workLen := rfl
@[simp] theorem setTx_tx : (setTx bs s).tx = Memory.ofBytes bs := rfl
@[simp] theorem setTx_txLen : (setTx bs s).txLen = bs.length := rfl
@[simp] theorem setTx_crcTable : (setTx bs s).crcTable = s.crcTable := rfl
@[simp] theorem setTx_ownAddress : (setTx bs s).ownAddress = s.ownAddress := rfl
@[simp] theorem setTx_timeoutMs : (setTx bs s).timeoutMs = s.timeoutMs := rfl
@[simp] theorem setTx_intakeCapacity : (setTx bs s).intakeCapacity = s.intakeCapacity := rfl
@[simp] theorem setTx_txCapacity : (setTx bs s).txCapacity = s.txCapacity := rfl
@[simp] theorem setTx_replyHeader : (setTx bs s).replyHeader = s.replyHeader := rfl
@[simp] theorem setTx_rx : (setTx bs s).rx = s.rx := rfl
@[simp] theorem setTx_counts : (setTx bs s).counts = s.counts := rfl
@[simp] theorem setTx_nows : (setTx bs s).nows = s.nows := rfl
@[simp] theorem setTx_replies : (setTx bs s).replies = s.replies := rfl
@[simp] theorem setTx_writtens : (setTx bs s).writtens = s.writtens := rfl
@[simp] theorem setTx_freeCount : (setTx bs s).freeCount = s.freeCount := rfl
@[simp] theorem setTx_port : (setTx bs s).port = s.port := rfl
@[simp] theorem setTx_out : (setTx bs s).out = s.out := rfl
@[simp] theorem setTx_trace : (setTx bs s).trace = s.trace := rfl
end

section
variable (s : State)
@[simp] theorem unspecifiedTx_initialised : (unspecifiedTx s).initialised = s.initialised := rfl
@[simp] theorem unspecifiedTx_state : (unspecifiedTx s).state = s.state := rfl
@[simp] theorem unspecifiedTx_need : (unspecifiedTx s).need = s.need := rfl
@[simp] theorem unspecifiedTx_timerStart : (unspecifiedTx s).timerStart = s.timerStart := rfl
@[simp] theorem unspecifiedTx_intake : (unspecifiedTx s).intake = s.intake := rfl
@[simp] theorem unspecifiedTx_intakeLen : (unspecifiedTx s).intakeLen = s.intakeLen := rfl
@[simp] theorem unspecifiedTx_work : (unspecifiedTx s).work = s.work := rfl
@[simp] theorem unspecifiedTx_workLen : (unspecifiedTx s).workLen = s.workLen := rfl
@[simp] theorem unspecifiedTx_tx : (unspecifiedTx s).tx = Memory.ofBytes ((List.range (freeTxLength s)).map (Config.freeTxByte s.freeCount)) := rfl
@[simp] theorem unspecifiedTx_txLen : (unspecifiedTx s).txLen = ((List.range (freeTxLength s)).map (Config.freeTxByte s.freeCount)).length := rfl
@[simp] theorem unspecifiedTx_crcTable : (unspecifiedTx s).crcTable = s.crcTable := rfl
@[simp] theorem unspecifiedTx_ownAddress : (unspecifiedTx s).ownAddress = s.ownAddress := rfl
@[simp] theorem unspecifiedTx_timeoutMs : (unspecifiedTx s).timeoutMs = s.timeoutMs := rfl
@[simp] theorem unspecifiedTx_intakeCapacity : (unspecifiedTx s).intakeCapacity = s.intakeCapacity := rfl
@[simp] theorem unspecifiedTx_txCapacity : (unspecifiedTx s).txCapacity = s.txCapacity := rfl
@[simp] theorem unspecifiedTx_replyHeader : (unspecifiedTx s).replyHeader = s.replyHeader := rfl
@[simp] theorem unspecifiedTx_rx : (unspecifiedTx s).rx = s.rx := rfl
@[simp] theorem unspecifiedTx_counts : (unspecifiedTx s).counts = s.counts := rfl
@[simp] theorem unspecifiedTx_nows : (unspecifiedTx s).nows = s.nows := rfl
@[simp] theorem unspecifiedTx_replies : (unspecifiedTx s).replies = s.replies := rfl
@[simp] theorem unspecifiedTx_writtens : (unspecifiedTx s).writtens = s.writtens := rfl
@[simp] theorem unspecifiedTx_freeCount : (unspecifiedTx s).freeCount = s.freeCount + 1 := rfl
@[simp] theorem unspecifiedTx_port : (unspecifiedTx s).port = s.port := rfl
@[simp] theorem unspecifiedTx_out : (unspecifiedTx s).out = s.out := rfl
@[simp] theorem unspecifiedTx_trace : (unspecifiedTx s).trace = s.trace := rfl
end

section
variable (hold : Bool) (s : State)
@[simp] theorem keepIntake_initialised : (keepIntake hold s).initialised = s.initialised := by cases hold <;> rfl
@[simp] theorem keepIntake_state : (keepIntake hold s).state = s.state := by cases hold <;> rfl
@[simp] theorem keepIntake_need : (keepIntake hold s).need = s.need := by cases hold <;> rfl
@[simp] theorem keepIntake_timerStart : (keepIntake hold s).timerStart = s.timerStart := by cases hold <;> rfl
@[simp] theorem keepIntake_intake : (keepIntake hold s).intake = if hold then [(0, Config.esc)] else [] := by cases hold <;> rfl
@[simp] theorem keepIntake_intakeLen : (keepIntake hold s).intakeLen = if hold then 1 else 0 := by cases hold <;> rfl
@[simp] theorem keepIntake_work : (keepIntake hold s).work = s.work := by cases hold <;> rfl
@[simp] theorem keepIntake_workLen : (keepIntake hold s).workLen = s.workLen := by cases hold <;> rfl
@[simp] theorem keepIntake_tx : (keepIntake hold s).tx = s.tx := by cases hold <;> rfl
@[simp] theorem keepIntake_txLen : (keepIntake hold s).txLen = s.txLen := by cases hold <;> rfl
@[simp] theorem keepIntake_crcTable : (keepIntake hold s).crcTable = s.crcTable := by cases hold <;> rfl
@[simp] theorem keepIntake_ownAddress : (keepIntake hold s).ownAddress = s.ownAddress := by cases hold <;> rfl
@[simp] theorem keepIntake_timeoutMs : (keepIntake hold s).timeoutMs = s.timeoutMs := by cases hold <;> rfl
@[simp] theorem keepIntake_intakeCapacity : (keepIntake hold s).intakeCapacity = s.intakeCapacity := by cases hold <;> rfl
@[simp] theorem keepIntake_txCapacity : (keepIntake hold s).txCapacity = s.txCapacity := by cases hold <;> rfl
@[simp] theorem keepIntake_replyHeader : (keepIntake hold s).replyHeader = s.replyHeader := by cases hold <;> rfl
@[simp] theorem keepIntake_rx : (keepIntake hold s).rx = s.rx := by cases hold <;> rfl
@[simp] theorem keepIntake_counts : (keepIntake hold s).counts = s.counts := by cases hold <;> rfl
@[simp] theorem keepIntake_nows : (keepIntake hold s).nows = s.nows := by cases hold <;> rfl
@[simp] theorem keepIntake_replies : (keepIntake hold s).replies = s.replies := by cases hold <;> rfl
@[simp] theorem keepIntake_writtens : (keepIntake hold s).writtens = s.writtens := by cases hold <;> rfl
@[simp] theorem keepIntake_freeCount : (keepIntake hold s).freeCount = s.freeCount := by cases hold <;> rfl
@[simp] theorem keepIntake_port : (keepIntake hold s).port = s.port := by cases hold <;> rfl
@[simp] theorem keepIntake_out : (keepIntake hold s).out = s.out := by cases hold <;> rfl
@[simp] theorem keepIntake_trace : (keepIntake hold s).trace = s.trace := by cases hold <;> rfl
end

section
variable (n : Nat) (s : State)
@[simp] theorem setNeed_initialised : (setNeed n s).initialised = s.initialised := rfl
@[simp] theorem setNeed_state : (setNeed n s).state = s.state := rfl
@[simp] theorem setNeed_need : (setNeed n s).need = BitVec.ofNat 8 n := rfl
@[simp] theorem setNeed_timerStart : (setNeed n s).timerStart = s.timerStart := rfl
@[simp] theorem setNeed_intake : (setNeed n s).intake = s.intake := rfl
@[simp] theorem setNeed_intakeLen : (setNeed n s).intakeLen = s.intakeLen := rfl
@[simp] theorem setNeed_work : (setNeed n s).work = s.work := rfl
@[simp] theorem setNeed_workLen : (setNeed n s).workLen = s.workLen := rfl
@[simp] theorem setNeed_tx : (setNeed n s).tx = s.tx := rfl
@[simp] theorem setNeed_txLen : (setNeed n s).txLen = s.txLen := rfl
@[simp] theorem setNeed_crcTable : (setNeed n s).crcTable = s.crcTable := rfl
@[simp] theorem setNeed_ownAddress : (setNeed n s).ownAddress = s.ownAddress := rfl
@[simp] theorem setNeed_timeoutMs : (setNeed n s).timeoutMs = s.timeoutMs := rfl
@[simp] theorem setNeed_intakeCapacity : (setNeed n s).intakeCapacity = s.intakeCapacity := rfl
@[simp] theorem setNeed_txCapacity : (setNeed n s).txCapacity = s.txCapacity := rfl
@[simp] theorem setNeed_replyHeader : (setNeed n s).replyHeader = s.replyHeader := rfl
@[simp] theorem setNeed_rx : (setNeed n s).rx = s.rx := rfl
@[simp] theorem setNeed_counts : (setNeed n s).counts = s.counts := rfl
@[simp] theorem setNeed_nows : (setNeed n s).nows = s.nows := rfl
@[simp] theorem setNeed_replies : (setNeed n s).replies = s.replies := rfl
@[simp] theorem setNeed_writtens : (setNeed n s).writtens = s.writtens := rfl
@[simp] theorem setNeed_freeCount : (setNeed n s).freeCount = s.freeCount := rfl
@[simp] theorem setNeed_port : (setNeed n s).port = s.port := rfl
@[simp] theorem setNeed_out : (setNeed n s).out = s.out := rfl
@[simp] theorem setNeed_trace : (setNeed n s).trace = s.trace := rfl
end

section
variable (s : State)
@[simp] theorem disarm_initialised : (disarm s).initialised = s.initialised := rfl
@[simp] theorem disarm_state : (disarm s).state = s.state := rfl
@[simp] theorem disarm_need : (disarm s).need = s.need := rfl
@[simp] theorem disarm_timerStart : (disarm s).timerStart = 0 := rfl
@[simp] theorem disarm_intake : (disarm s).intake = s.intake := rfl
@[simp] theorem disarm_intakeLen : (disarm s).intakeLen = s.intakeLen := rfl
@[simp] theorem disarm_work : (disarm s).work = s.work := rfl
@[simp] theorem disarm_workLen : (disarm s).workLen = s.workLen := rfl
@[simp] theorem disarm_tx : (disarm s).tx = s.tx := rfl
@[simp] theorem disarm_txLen : (disarm s).txLen = s.txLen := rfl
@[simp] theorem disarm_crcTable : (disarm s).crcTable = s.crcTable := rfl
@[simp] theorem disarm_ownAddress : (disarm s).ownAddress = s.ownAddress := rfl
@[simp] theorem disarm_timeoutMs : (disarm s).timeoutMs = s.timeoutMs := rfl
@[simp] theorem disarm_intakeCapacity : (disarm s).intakeCapacity = s.intakeCapacity := rfl
@[simp] theorem disarm_txCapacity : (disarm s).txCapacity = s.txCapacity := rfl
@[simp] theorem disarm_replyHeader : (disarm s).replyHeader = s.replyHeader := rfl
@[simp] theorem disarm_rx : (disarm s).rx = s.rx := rfl
@[simp] theorem disarm_counts : (disarm s).counts = s.counts := rfl
@[simp] theorem disarm_nows : (disarm s).nows = s.nows := rfl
@[simp] theorem disarm_replies : (disarm s).replies = s.replies := rfl
@[simp] theorem disarm_writtens : (disarm s).writtens = s.writtens := rfl
@[simp] theorem disarm_freeCount : (disarm s).freeCount = s.freeCount := rfl
@[simp] theorem disarm_port : (disarm s).port = s.port := rfl
@[simp] theorem disarm_out : (disarm s).out = s.out := rfl
@[simp] theorem disarm_trace : (disarm s).trace = s.trace := rfl
end

section
variable (now : U32) (s : State)
@[simp] theorem arm_initialised : (arm now s).initialised = s.initialised := rfl
@[simp] theorem arm_state : (arm now s).state = s.state := rfl
@[simp] theorem arm_need : (arm now s).need = s.need := rfl
@[simp] theorem arm_timerStart : (arm now s).timerStart = now := rfl
@[simp] theorem arm_intake : (arm now s).intake = s.intake := rfl
@[simp] theorem arm_intakeLen : (arm now s).intakeLen = s.intakeLen := rfl
@[simp] theorem arm_work : (arm now s).work = s.work := rfl
@[simp] theorem arm_workLen : (arm now s).workLen = s.workLen := rfl
@[simp] theorem arm_tx : (arm now s).tx = s.tx := rfl
@[simp] theorem arm_txLen : (arm now s).txLen = s.txLen := rfl
@[simp] theorem arm_crcTable : (arm now s).crcTable = s.crcTable := rfl
@[simp] theorem arm_ownAddress : (arm now s).ownAddress = s.ownAddress := rfl
@[simp] theorem arm_timeoutMs : (arm now s).timeoutMs = s.timeoutMs := rfl
@[simp] theorem arm_intakeCapacity : (arm now s).intakeCapacity = s.intakeCapacity := rfl
@[simp] theorem arm_txCapacity : (arm now s).txCapacity = s.txCapacity := rfl
@[simp] theorem arm_replyHeader : (arm now s).replyHeader = s.replyHeader := rfl
@[simp] theorem arm_rx : (arm now s).rx = s.rx := rfl
@[simp] theorem arm_counts : (arm now s).counts = s.counts := rfl
@[simp] theorem arm_nows : (arm now s).nows = s.nows := rfl
@[simp] theorem arm_replies : (arm now s).replies = s.replies := rfl
@[simp] theorem arm_writtens : (arm now s).writtens = s.writtens := rfl
@[simp] theorem arm_freeCount : (arm now s).freeCount = s.freeCount := rfl
@[simp] theorem arm_port : (arm now s).port = s.port := rfl
@[simp] theorem arm_out : (arm now s).out = s.out := rfl
@[simp] theorem arm_trace : (arm now s).trace = s.trace := rfl
end

section
variable (s : State)
@[simp] theorem toPending_initialised : (toPending s).initialised = s.initialised := rfl
@[simp] theorem toPending_state : (toPending s).state = .pending := rfl
@[simp] theorem toPending_need : (toPending s).need = 0 := rfl
@[simp] theorem toPending_timerStart : (toPending s).timerStart = 0 := rfl
@[simp] theorem toPending_intake : (toPending s).intake = s.intake := rfl
@[simp] theorem toPending_intakeLen : (toPending s).intakeLen = s.intakeLen := rfl
@[simp] theorem toPending_work : (toPending s).work = s.work := rfl
@[simp] theorem toPending_workLen : (toPending s).workLen = s.workLen := rfl
@[simp] theorem toPending_tx : (toPending s).tx = s.tx := rfl
@[simp] theorem toPending_txLen : (toPending s).txLen = s.txLen := rfl
@[simp] theorem toPending_crcTable : (toPending s).crcTable = s.crcTable := rfl
@[simp] theorem toPending_ownAddress : (toPending s).ownAddress = s.ownAddress := rfl
@[simp] theorem toPending_timeoutMs : (toPending s).timeoutMs = s.timeoutMs := rfl
@[simp] theorem toPending_intakeCapacity : (toPending s).intakeCapacity = s.intakeCapacity := rfl
@[simp] theorem toPending_txCapacity : (toPending s).txCapacity = s.txCapacity := rfl
@[simp] theorem toPending_replyHeader : (toPending s).replyHeader = s.replyHeader := rfl
@[simp] theorem toPending_rx : (toPending s).rx = s.rx := rfl
@[simp] theorem toPending_counts : (toPending s).counts = s.counts := rfl
@[simp] theorem toPending_nows : (toPending s).nows = s.nows := rfl
@[simp] theorem toPending_replies : (toPending s).replies = s.replies := rfl
@[simp] theorem toPending_writtens : (toPending s).writtens = s.writtens := rfl
@[simp] theorem toPending_freeCount : (toPending s).freeCount = s.freeCount := rfl
@[simp] theorem toPending_port : (toPending s).port = s.port := rfl
@[simp] theorem toPending_out : (toPending s).out = s.out := rfl
@[simp] theorem toPending_trace : (toPending s).trace = s.trace := rfl
end

section
variable (s : State)
@[simp] theorem abort_initialised : (abort s).initialised = s.initialised := rfl
@[simp] theorem abort_state : (abort s).state = .pending := rfl
@[simp] theorem abort_need : (abort s).need = 0 := rfl
@[simp] theorem abort_timerStart : (abort s).timerStart = 0 := rfl
@[simp] theorem abort_intake : (abort s).intake = [] := rfl
@[simp] theorem abort_intakeLen : (abort s).intakeLen = 0 := rfl
@[simp] theorem abort_work : (abort s).work = [] := rfl
@[simp] theorem abort_workLen : (abort s).workLen = 0 := rfl
@[simp] theorem abort_tx : (abort s).tx = s.tx := rfl
@[simp] theorem abort_txLen : (abort s).txLen = s.txLen := rfl
@[simp] theorem abort_crcTable : (abort s).crcTable = s.crcTable := rfl
@[simp] theorem abort_ownAddress : (abort s).ownAddress = s.ownAddress := rfl
@[simp] theorem abort_timeoutMs : (abort s).timeoutMs = s.timeoutMs := rfl
@[simp] theorem abort_intakeCapacity : (abort s).intakeCapacity = s.intakeCapacity := rfl
@[simp] theorem abort_txCapacity : (abort s).txCapacity = s.txCapacity := rfl
@[simp] theorem abort_replyHeader : (abort s).replyHeader = s.replyHeader := rfl
@[simp] theorem abort_rx : (abort s).rx = s.rx := rfl
@[simp] theorem abort_counts : (abort s).counts = s.counts := rfl
@[simp] theorem abort_nows : (abort s).nows = s.nows := rfl
@[simp] theorem abort_replies : (abort s).replies = s.replies := rfl
@[simp] theorem abort_writtens : (abort s).writtens = s.writtens := rfl
@[simp] theorem abort_freeCount : (abort s).freeCount = s.freeCount := rfl
@[simp] theorem abort_port : (abort s).port = s.port := rfl
@[simp] theorem abort_out : (abort s).out = s.out := rfl
@[simp] theorem abort_trace : (abort s).trace = s.trace := rfl
end

section
variable (e : ErrorCode) (s : State)
@[simp] theorem returnCode_initialised : (returnCode e s).initialised = s.initialised := rfl
@[simp] theorem returnCode_state : (returnCode e s).state = s.state := rfl
@[simp] theorem returnCode_need : (returnCode e s).need = s.need := rfl
@[simp] theorem returnCode_timerStart : (returnCode e s).timerStart = s.timerStart := rfl
@[simp] theorem returnCode_intake : (returnCode e s).intake = s.intake := rfl
@[simp] theorem returnCode_intakeLen : (returnCode e s).intakeLen = s.intakeLen := rfl
@[simp] theorem returnCode_work : (returnCode e s).work = s.work := rfl
@[simp] theorem returnCode_workLen : (returnCode e s).workLen = s.workLen := rfl
@[simp] theorem returnCode_tx : (returnCode e s).tx = s.tx := rfl
@[simp] theorem returnCode_txLen : (returnCode e s).txLen = s.txLen := rfl
@[simp] theorem returnCode_crcTable : (returnCode e s).crcTable = s.crcTable := rfl
@[simp] theorem returnCode_ownAddress : (returnCode e s).ownAddress = s.ownAddress := rfl
@[simp] theorem returnCode_timeoutMs : (returnCode e s).timeoutMs = s.timeoutMs := rfl
@[simp] theorem returnCode_intakeCapacity : (returnCode e s).intakeCapacity = s.intakeCapacity := rfl
@[simp] theorem returnCode_txCapacity : (returnCode e s).txCapacity = s.txCapacity := rfl
@[simp] theorem returnCode_replyHeader : (returnCode e s).replyHeader = s.replyHeader := rfl
@[simp] theorem returnCode_rx : (returnCode e s).rx = s.rx := rfl
@[simp] theorem returnCode_counts : (returnCode e s).counts = s.counts := rfl
@[simp] theorem returnCode_nows : (returnCode e s).nows = s.nows := rfl
@[simp] theorem returnCode_replies : (returnCode e s).replies = s.replies := rfl
@[simp] theorem returnCode_writtens : (returnCode e s).writtens = s.writtens := rfl
@[simp] theorem returnCode_freeCount : (returnCode e s).freeCount = s.freeCount := rfl
@[simp] theorem returnCode_port : (returnCode e s).port = s.port := rfl
@[simp] theorem returnCode_out : (returnCode e s).out = .code e := rfl
@[simp] theorem returnCode_trace : (returnCode e s).trace = s.trace ++ [.returned e] := rfl
end

section
variable (o : Output) (s : State)
@[simp] theorem handOut_initialised : (handOut o s).initialised = s.initialised := rfl
@[simp] theorem handOut_state : (handOut o s).state = s.state := rfl
@[simp] theorem handOut_need : (handOut o s).need = s.need := rfl
@[simp] theorem handOut_timerStart : (handOut o s).timerStart = s.timerStart := rfl
@[simp] theorem handOut_intake : (handOut o s).intake = s.intake := rfl
@[simp] theorem handOut_intakeLen : (handOut o s).intakeLen = s.intakeLen := rfl
@[simp] theorem handOut_work : (handOut o s).work = s.work := rfl
@[simp] theorem handOut_workLen : (handOut o s).workLen = s.workLen := rfl
@[simp] theorem handOut_tx : (handOut o s).tx = s.tx := rfl
@[simp] theorem handOut_txLen : (handOut o s).txLen = s.txLen := rfl
@[simp] theorem handOut_crcTable : (handOut o s).crcTable = s.crcTable := rfl
@[simp] theorem handOut_ownAddress : (handOut o s).ownAddress = s.ownAddress := rfl
@[simp] theorem handOut_timeoutMs : (handOut o s).timeoutMs = s.timeoutMs := rfl
@[simp] theorem handOut_intakeCapacity : (handOut o s).intakeCapacity = s.intakeCapacity := rfl
@[simp] theorem handOut_txCapacity : (handOut o s).txCapacity = s.txCapacity := rfl
@[simp] theorem handOut_replyHeader : (handOut o s).replyHeader = s.replyHeader := rfl
@[simp] theorem handOut_rx : (handOut o s).rx = s.rx := rfl
@[simp] theorem handOut_counts : (handOut o s).counts = s.counts := rfl
@[simp] theorem handOut_nows : (handOut o s).nows = s.nows := rfl
@[simp] theorem handOut_replies : (handOut o s).replies = s.replies := rfl
@[simp] theorem handOut_writtens : (handOut o s).writtens = s.writtens := rfl
@[simp] theorem handOut_freeCount : (handOut o s).freeCount = s.freeCount := rfl
@[simp] theorem handOut_port : (handOut o s).port = s.port := rfl
@[simp] theorem handOut_out : (handOut o s).out = o := rfl
@[simp] theorem handOut_trace : (handOut o s).trace = s.trace := rfl
end

section
variable (s : State)
@[simp] theorem afterNow_initialised : (afterNow s).initialised = s.initialised := rfl
@[simp] theorem afterNow_state : (afterNow s).state = s.state := rfl
@[simp] theorem afterNow_need : (afterNow s).need = s.need := rfl
@[simp] theorem afterNow_timerStart : (afterNow s).timerStart = s.timerStart := rfl
@[simp] theorem afterNow_intake : (afterNow s).intake = s.intake := rfl
@[simp] theorem afterNow_intakeLen : (afterNow s).intakeLen = s.intakeLen := rfl
@[simp] theorem afterNow_work : (afterNow s).work = s.work := rfl
@[simp] theorem afterNow_workLen : (afterNow s).workLen = s.workLen := rfl
@[simp] theorem afterNow_tx : (afterNow s).tx = s.tx := rfl
@[simp] theorem afterNow_txLen : (afterNow s).txLen = s.txLen := rfl
@[simp] theorem afterNow_crcTable : (afterNow s).crcTable = s.crcTable := rfl
@[simp] theorem afterNow_ownAddress : (afterNow s).ownAddress = s.ownAddress := rfl
@[simp] theorem afterNow_timeoutMs : (afterNow s).timeoutMs = s.timeoutMs := rfl
@[simp] theorem afterNow_intakeCapacity : (afterNow s).intakeCapacity = s.intakeCapacity := rfl
@[simp] theorem afterNow_txCapacity : (afterNow s).txCapacity = s.txCapacity := rfl
@[simp] theorem afterNow_replyHeader : (afterNow s).replyHeader = s.replyHeader := rfl
@[simp] theorem afterNow_rx : (afterNow s).rx = s.rx := rfl
@[simp] theorem afterNow_counts : (afterNow s).counts = s.counts := rfl
@[simp] theorem afterNow_nows : (afterNow s).nows = s.nows.tail := rfl
@[simp] theorem afterNow_replies : (afterNow s).replies = s.replies := rfl
@[simp] theorem afterNow_writtens : (afterNow s).writtens = s.writtens := rfl
@[simp] theorem afterNow_freeCount : (afterNow s).freeCount = if s.nows.isEmpty then s.freeCount + 1 else s.freeCount := rfl
@[simp] theorem afterNow_port : (afterNow s).port = s.port := rfl
@[simp] theorem afterNow_out : (afterNow s).out = s.out := rfl
@[simp] theorem afterNow_trace : (afterNow s).trace = s.trace ++ [.now (nowAnswer s)] := rfl
end

section
variable (max : Nat) (s : State)
@[simp] theorem afterRead_initialised : (afterRead max s).initialised = s.initialised := rfl
@[simp] theorem afterRead_state : (afterRead max s).state = s.state := rfl
@[simp] theorem afterRead_need : (afterRead max s).need = s.need := rfl
@[simp] theorem afterRead_timerStart : (afterRead max s).timerStart = s.timerStart := rfl
@[simp] theorem afterRead_intake : (afterRead max s).intake = s.intake := rfl
@[simp] theorem afterRead_intakeLen : (afterRead max s).intakeLen = s.intakeLen := rfl
@[simp] theorem afterRead_work : (afterRead max s).work = s.work := rfl
@[simp] theorem afterRead_workLen : (afterRead max s).workLen = s.workLen := rfl
@[simp] theorem afterRead_tx : (afterRead max s).tx = s.tx := rfl
@[simp] theorem afterRead_txLen : (afterRead max s).txLen = s.txLen := rfl
@[simp] theorem afterRead_crcTable : (afterRead max s).crcTable = s.crcTable := rfl
@[simp] theorem afterRead_ownAddress : (afterRead max s).ownAddress = s.ownAddress := rfl
@[simp] theorem afterRead_timeoutMs : (afterRead max s).timeoutMs = s.timeoutMs := rfl
@[simp] theorem afterRead_intakeCapacity : (afterRead max s).intakeCapacity = s.intakeCapacity := rfl
@[simp] theorem afterRead_txCapacity : (afterRead max s).txCapacity = s.txCapacity := rfl
@[simp] theorem afterRead_replyHeader : (afterRead max s).replyHeader = s.replyHeader := rfl
@[simp] theorem afterRead_rx : (afterRead max s).rx = if s.rx.isEmpty then [] else s.rx.drop (readCount max s) := rfl
@[simp] theorem afterRead_counts : (afterRead max s).counts = s.counts.tail := rfl
@[simp] theorem afterRead_nows : (afterRead max s).nows = s.nows := rfl
@[simp] theorem afterRead_replies : (afterRead max s).replies = s.replies := rfl
@[simp] theorem afterRead_writtens : (afterRead max s).writtens = s.writtens := rfl
@[simp] theorem afterRead_freeCount : (afterRead max s).freeCount = if s.counts.isEmpty && !s.rx.isEmpty then s.freeCount + 1 else s.freeCount := rfl
@[simp] theorem afterRead_port : (afterRead max s).port = s.port := rfl
@[simp] theorem afterRead_out : (afterRead max s).out = s.out := rfl
@[simp] theorem afterRead_trace : (afterRead max s).trace = s.trace ++ [.read max (readAnswer max s)] := rfl
end

section
variable (bs : List Byte) (s : State)
@[simp] theorem afterWrite_initialised : (afterWrite bs s).initialised = s.initialised := rfl
@[simp] theorem afterWrite_state : (afterWrite bs s).state = s.state := rfl
@[simp] theorem afterWrite_need : (afterWrite bs s).need = s.need := rfl
@[simp] theorem afterWrite_timerStart : (afterWrite bs s).timerStart = s.timerStart := rfl
@[simp] theorem afterWrite_intake : (afterWrite bs s).intake = s.intake := rfl
@[simp] theorem afterWrite_intakeLen : (afterWrite bs s).intakeLen = s.intakeLen := rfl
@[simp] theorem afterWrite_work : (afterWrite bs s).work = s.work := rfl
@[simp] theorem afterWrite_workLen : (afterWrite bs s).workLen = s.workLen := rfl
@[simp] theorem afterWrite_tx : (afterWrite bs s).tx = s.tx := rfl
@[simp] theorem afterWrite_txLen : (afterWrite bs s).txLen = s.txLen := rfl
@[simp] theorem afterWrite_crcTable : (afterWrite bs s).crcTable = s.crcTable := rfl
@[simp] theorem afterWrite_ownAddress : (afterWrite bs s).ownAddress = s.ownAddress := rfl
@[simp] theorem afterWrite_timeoutMs : (afterWrite bs s).timeoutMs = s.timeoutMs := rfl
@[simp] theorem afterWrite_intakeCapacity : (afterWrite bs s).intakeCapacity = s.intakeCapacity := rfl
@[simp] theorem afterWrite_txCapacity : (afterWrite bs s).txCapacity = s.txCapacity := rfl
@[simp] theorem afterWrite_replyHeader : (afterWrite bs s).replyHeader = s.replyHeader := rfl
@[simp] theorem afterWrite_rx : (afterWrite bs s).rx = s.rx := rfl
@[simp] theorem afterWrite_counts : (afterWrite bs s).counts = s.counts := rfl
@[simp] theorem afterWrite_nows : (afterWrite bs s).nows = s.nows := rfl
@[simp] theorem afterWrite_replies : (afterWrite bs s).replies = s.replies := rfl
@[simp] theorem afterWrite_writtens : (afterWrite bs s).writtens = s.writtens.tail := rfl
@[simp] theorem afterWrite_freeCount : (afterWrite bs s).freeCount = if s.writtens.isEmpty then s.freeCount + 1 else s.freeCount := rfl
@[simp] theorem afterWrite_port : (afterWrite bs s).port = s.port := rfl
@[simp] theorem afterWrite_out : (afterWrite bs s).out = s.out := rfl
@[simp] theorem afterWrite_trace : (afterWrite bs s).trace = s.trace ++ [.write bs (writeAnswer s)] := rfl
end

section
variable (cmd : Byte) (data : List Byte) (size : Nat) (s : State)
@[simp] theorem afterHandle_initialised : (afterHandle cmd data size s).initialised = s.initialised := rfl
@[simp] theorem afterHandle_state : (afterHandle cmd data size s).state = s.state := rfl
@[simp] theorem afterHandle_need : (afterHandle cmd data size s).need = s.need := rfl
@[simp] theorem afterHandle_timerStart : (afterHandle cmd data size s).timerStart = s.timerStart := rfl
@[simp] theorem afterHandle_intake : (afterHandle cmd data size s).intake = s.intake := rfl
@[simp] theorem afterHandle_intakeLen : (afterHandle cmd data size s).intakeLen = s.intakeLen := rfl
@[simp] theorem afterHandle_work : (afterHandle cmd data size s).work = s.work := rfl
@[simp] theorem afterHandle_workLen : (afterHandle cmd data size s).workLen = s.workLen := rfl
@[simp] theorem afterHandle_tx : (afterHandle cmd data size s).tx = s.tx := rfl
@[simp] theorem afterHandle_txLen : (afterHandle cmd data size s).txLen = s.txLen := rfl
@[simp] theorem afterHandle_crcTable : (afterHandle cmd data size s).crcTable = s.crcTable := rfl
@[simp] theorem afterHandle_ownAddress : (afterHandle cmd data size s).ownAddress = s.ownAddress := rfl
@[simp] theorem afterHandle_timeoutMs : (afterHandle cmd data size s).timeoutMs = s.timeoutMs := rfl
@[simp] theorem afterHandle_intakeCapacity : (afterHandle cmd data size s).intakeCapacity = s.intakeCapacity := rfl
@[simp] theorem afterHandle_txCapacity : (afterHandle cmd data size s).txCapacity = s.txCapacity := rfl
@[simp] theorem afterHandle_replyHeader : (afterHandle cmd data size s).replyHeader = s.replyHeader := rfl
@[simp] theorem afterHandle_rx : (afterHandle cmd data size s).rx = s.rx := rfl
@[simp] theorem afterHandle_counts : (afterHandle cmd data size s).counts = s.counts := rfl
@[simp] theorem afterHandle_nows : (afterHandle cmd data size s).nows = s.nows := rfl
@[simp] theorem afterHandle_replies : (afterHandle cmd data size s).replies = s.replies.tail := rfl
@[simp] theorem afterHandle_writtens : (afterHandle cmd data size s).writtens = s.writtens := rfl
@[simp] theorem afterHandle_freeCount : (afterHandle cmd data size s).freeCount = if s.replies.isEmpty then s.freeCount + 1 else s.freeCount := rfl
@[simp] theorem afterHandle_port : (afterHandle cmd data size s).port = s.port := rfl
@[simp] theorem afterHandle_out : (afterHandle cmd data size s).out = s.out := rfl
@[simp] theorem afterHandle_trace : (afterHandle cmd data size s).trace = s.trace ++ [.handle cmd data size (handleAnswer s)] := rfl
end

section
variable (now : U32) (s : State)
@[simp] theorem beginFrame_initialised : (beginFrame now s).initialised = s.initialised := rfl
@[simp] theorem beginFrame_state : (beginFrame now s).state = .headerReceiving := rfl
@[simp] theorem beginFrame_need : (beginFrame now s).need = 3 := rfl
@[simp] theorem beginFrame_timerStart : (beginFrame now s).timerStart = now := rfl
@[simp] theorem beginFrame_intake : (beginFrame now s).intake = [] := rfl
@[simp] theorem beginFrame_intakeLen : (beginFrame now s).intakeLen = 0 := rfl
@[simp] theorem beginFrame_work : (beginFrame now s).work = [] := rfl
@[simp] theorem beginFrame_workLen : (beginFrame now s).workLen = 0 := rfl
@[simp] theorem beginFrame_tx : (beginFrame now s).tx = s.tx := rfl
@[simp] theorem beginFrame_txLen : (beginFrame now s).txLen = s.txLen := rfl
@[simp] theorem beginFrame_crcTable : (beginFrame now s).crcTable = s.crcTable := rfl
@[simp] theorem beginFrame_ownAddress : (beginFrame now s).ownAddress = s.ownAddress := rfl
@[simp] theorem beginFrame_timeoutMs : (beginFrame now s).timeoutMs = s.timeoutMs := rfl
@[simp] theorem beginFrame_intakeCapacity : (beginFrame now s).intakeCapacity = s.intakeCapacity := rfl
@[simp] theorem beginFrame_txCapacity : (beginFrame now s).txCapacity = s.txCapacity := rfl
@[simp] theorem beginFrame_replyHeader : (beginFrame now s).replyHeader = s.replyHeader := rfl
@[simp] theorem beginFrame_rx : (beginFrame now s).rx = s.rx := rfl
@[simp] theorem beginFrame_counts : (beginFrame now s).counts = s.counts := rfl
@[simp] theorem beginFrame_nows : (beginFrame now s).nows = s.nows := rfl
@[simp] theorem beginFrame_replies : (beginFrame now s).replies = s.replies := rfl
@[simp] theorem beginFrame_writtens : (beginFrame now s).writtens = s.writtens := rfl
@[simp] theorem beginFrame_freeCount : (beginFrame now s).freeCount = s.freeCount := rfl
@[simp] theorem beginFrame_port : (beginFrame now s).port = s.port := rfl
@[simp] theorem beginFrame_out : (beginFrame now s).out = s.out := rfl
@[simp] theorem beginFrame_trace : (beginFrame now s).trace = s.trace := rfl
end

section
variable (s : State)
@[simp] theorem initCore_initialised : (initCore s).initialised = true := rfl
@[simp] theorem initCore_state : (initCore s).state = .pending := rfl
@[simp] theorem initCore_need : (initCore s).need = 0 := rfl
@[simp] theorem initCore_timerStart : (initCore s).timerStart = 0 := rfl
@[simp] theorem initCore_intake : (initCore s).intake = [] := rfl
@[simp] theorem initCore_intakeLen : (initCore s).intakeLen = 0 := rfl
@[simp] theorem initCore_work : (initCore s).work = [] := rfl
@[simp] theorem initCore_workLen : (initCore s).workLen = 0 := rfl
@[simp] theorem initCore_tx : (initCore s).tx = [] := rfl
@[simp] theorem initCore_txLen : (initCore s).txLen = 0 := rfl
@[simp] theorem initCore_crcTable : (initCore s).crcTable = buildTable Config.poly := rfl
@[simp] theorem initCore_ownAddress : (initCore s).ownAddress = s.ownAddress := rfl
@[simp] theorem initCore_timeoutMs : (initCore s).timeoutMs = s.timeoutMs := rfl
@[simp] theorem initCore_intakeCapacity : (initCore s).intakeCapacity = s.intakeCapacity := rfl
@[simp] theorem initCore_txCapacity : (initCore s).txCapacity = s.txCapacity := rfl
@[simp] theorem initCore_replyHeader : (initCore s).replyHeader = s.replyHeader := rfl
@[simp] theorem initCore_rx : (initCore s).rx = s.rx := rfl
@[simp] theorem initCore_counts : (initCore s).counts = s.counts := rfl
@[simp] theorem initCore_nows : (initCore s).nows = s.nows := rfl
@[simp] theorem initCore_replies : (initCore s).replies = s.replies := rfl
@[simp] theorem initCore_writtens : (initCore s).writtens = s.writtens := rfl
@[simp] theorem initCore_freeCount : (initCore s).freeCount = s.freeCount := rfl
@[simp] theorem initCore_port : (initCore s).port = s.port := rfl
@[simp] theorem initCore_out : (initCore s).out = s.out := rfl
@[simp] theorem initCore_trace : (initCore s).trace = s.trace := rfl
end

section
variable (b : Byte) (s : State)
@[simp] theorem offerByte_initialised : (offerByte b s).initialised = s.initialised := rfl
@[simp] theorem offerByte_state : (offerByte b s).state = s.state := rfl
@[simp] theorem offerByte_need : (offerByte b s).need = s.need := rfl
@[simp] theorem offerByte_timerStart : (offerByte b s).timerStart = s.timerStart := rfl
@[simp] theorem offerByte_intake : (offerByte b s).intake = s.intake := rfl
@[simp] theorem offerByte_intakeLen : (offerByte b s).intakeLen = s.intakeLen := rfl
@[simp] theorem offerByte_work : (offerByte b s).work = s.work := rfl
@[simp] theorem offerByte_workLen : (offerByte b s).workLen = s.workLen := rfl
@[simp] theorem offerByte_tx : (offerByte b s).tx = s.tx := rfl
@[simp] theorem offerByte_txLen : (offerByte b s).txLen = s.txLen := rfl
@[simp] theorem offerByte_crcTable : (offerByte b s).crcTable = s.crcTable := rfl
@[simp] theorem offerByte_ownAddress : (offerByte b s).ownAddress = s.ownAddress := rfl
@[simp] theorem offerByte_timeoutMs : (offerByte b s).timeoutMs = s.timeoutMs := rfl
@[simp] theorem offerByte_intakeCapacity : (offerByte b s).intakeCapacity = s.intakeCapacity := rfl
@[simp] theorem offerByte_txCapacity : (offerByte b s).txCapacity = s.txCapacity := rfl
@[simp] theorem offerByte_replyHeader : (offerByte b s).replyHeader = s.replyHeader := rfl
@[simp] theorem offerByte_rx : (offerByte b s).rx = b :: s.rx := rfl
@[simp] theorem offerByte_counts : (offerByte b s).counts = 1 :: s.counts := rfl
@[simp] theorem offerByte_nows : (offerByte b s).nows = s.nows := rfl
@[simp] theorem offerByte_replies : (offerByte b s).replies = s.replies := rfl
@[simp] theorem offerByte_writtens : (offerByte b s).writtens = s.writtens := rfl
@[simp] theorem offerByte_freeCount : (offerByte b s).freeCount = s.freeCount := rfl
@[simp] theorem offerByte_port : (offerByte b s).port = s.port := rfl
@[simp] theorem offerByte_out : (offerByte b s).out = s.out := rfl
@[simp] theorem offerByte_trace : (offerByte b s).trace = s.trace := rfl
end

section
variable (bs : List Byte) (s : State)
@[simp] theorem holdBytes_initialised : (holdBytes bs s).initialised = s.initialised := rfl
@[simp] theorem holdBytes_state : (holdBytes bs s).state = s.state := rfl
@[simp] theorem holdBytes_need : (holdBytes bs s).need = s.need := rfl
@[simp] theorem holdBytes_timerStart : (holdBytes bs s).timerStart = s.timerStart := rfl
@[simp] theorem holdBytes_intake : (holdBytes bs s).intake = s.intake := rfl
@[simp] theorem holdBytes_intakeLen : (holdBytes bs s).intakeLen = s.intakeLen := rfl
@[simp] theorem holdBytes_workLen : (holdBytes bs s).workLen = bs.length := Nat.zero_add _
@[simp] theorem holdBytes_tx : (holdBytes bs s).tx = s.tx := rfl
@[simp] theorem holdBytes_txLen : (holdBytes bs s).txLen = s.txLen := rfl
@[simp] theorem holdBytes_crcTable : (holdBytes bs s).crcTable = s.crcTable := rfl
@[simp] theorem holdBytes_ownAddress : (holdBytes bs s).ownAddress = s.ownAddress := rfl
@[simp] theorem holdBytes_timeoutMs : (holdBytes bs s).timeoutMs = s.timeoutMs := rfl
@[simp] theorem holdBytes_intakeCapacity : (holdBytes bs s).intakeCapacity = s.intakeCapacity := rfl
@[simp] theorem holdBytes_txCapacity : (holdBytes bs s).txCapacity = s.txCapacity := rfl
@[simp] theorem holdBytes_replyHeader : (holdBytes bs s).replyHeader = s.replyHeader := rfl
@[simp] theorem holdBytes_rx : (holdBytes bs s).rx = s.rx := rfl
@[simp] theorem holdBytes_counts : (holdBytes bs s).counts = s.counts := rfl
@[simp] theorem holdBytes_nows : (holdBytes bs s).nows = s.nows := rfl
@[simp] theorem holdBytes_replies : (holdBytes bs s).replies = s.replies := rfl
@[simp] theorem holdBytes_writtens : (holdBytes bs s).writtens = s.writtens := rfl
@[simp] theorem holdBytes_freeCount : (holdBytes bs s).freeCount = s.freeCount := rfl
@[simp] theorem holdBytes_port : (holdBytes bs s).port = s.port := rfl
@[simp] theorem holdBytes_out : (holdBytes bs s).out = s.out := rfl
@[simp] theorem holdBytes_trace : (holdBytes bs s).trace = s.trace := rfl
end

end Sys2Proof.Machine
end

