-- ==== Sys2Proof/Laws/Memory.lean ====
section
/-! SUPPORT. The byte stores: reading after writing, the canonical form, and the stores that hold a byte sequence. -/

namespace Sys2Proof.Machine

/-- Reading after a write: the byte written at its index, every other byte as before. -/
theorem Memory.read_write (m : Memory) (i j : Nat) (v : Byte) :
    (Memory.write m i v).read j = if j = i then some v else m.read j := by
  induction m with
  | nil => rfl
  | cons c m ih =>
    obtain ⟨a, b⟩ := c
    by_cases h1 : i < a
    · simp [Memory.write, Memory.read, h1]
    · by_cases h2 : i = a
      · subst h2
        by_cases hj : j = i <;> simp [Memory.write, Memory.read, hj]
      · by_cases hj : j = a
        · subst hj
          simp [Memory.write, Memory.read, h1, h2, Ne.symm h2]
        · simp [Memory.write, Memory.read, h1, h2, hj, ih]

theorem Memory.wfFrom_write (m : Memory) (i n : Nat) (v : Byte) (hi : n ≤ i) (h : Memory.wfFrom n m = true) :
    Memory.wfFrom n (Memory.write m i v) = true := by
  induction m generalizing n with
  | nil => simpa [Memory.write, Memory.wfFrom] using hi
  | cons c m ih =>
    obtain ⟨a, b⟩ := c
    simp only [Memory.wfFrom, Bool.and_eq_true, decide_eq_true_eq] at h
    simp only [Memory.write]
    split_ifs with h1 h2
    · simp only [Memory.wfFrom, Bool.and_eq_true, decide_eq_true_eq]
      exact ⟨hi, by omega, h.2⟩
    · subst h2
      simpa [Memory.wfFrom] using h
    · simp only [Memory.wfFrom, Bool.and_eq_true, decide_eq_true_eq]
      exact ⟨h.1, ih _ (by omega) h.2⟩

/-- Every write keeps the canonical form. -/
theorem Memory.wf_write (m : Memory) (i : Nat) (v : Byte) (h : m.wf = true) : (m.write i v).wf = true :=
  Memory.wfFrom_write m i 0 v (Nat.zero_le _) h

theorem Memory.wf_writeBytes (m : Memory) (i : Nat) (bs : List Byte) (h : m.wf = true) :
    (m.writeBytes i bs).wf = true := by
  induction bs generalizing m i with
  | nil => exact h
  | cons b bs ih => exact ih _ _ (Memory.wf_write m i b h)

theorem Memory.wfFrom_ofBytesFrom (i n : Nat) (bs : List Byte) (h : n ≤ i) :
    Memory.wfFrom n (Memory.ofBytesFrom i bs) = true := by
  induction bs generalizing i n with
  | nil => rfl
  | cons b bs ih => simp [Memory.ofBytesFrom, Memory.wfFrom, h, ih]

theorem Memory.wf_ofBytes (bs : List Byte) : (Memory.ofBytes bs).wf = true :=
  Memory.wfFrom_ofBytesFrom 0 0 bs (Nat.le_refl _)

theorem Memory.read_ofBytesFrom (i j : Nat) (bs : List Byte) :
    (Memory.ofBytesFrom i bs).read j = if i ≤ j then bs[j - i]? else none := by
  induction bs generalizing i with
  | nil => simp [Memory.ofBytesFrom, Memory.read]
  | cons b bs ih =>
    simp only [Memory.ofBytesFrom, Memory.read, ih]
    rcases Nat.lt_trichotomy j i with h | h | h
    · simp [Nat.ne_of_lt h, Nat.not_le.mpr h, show ¬ i + 1 ≤ j by omega]
    · subst h; simp
    · have hk : j - i = (j - (i + 1)) + 1 := by omega
      simp [show ¬ j = i by omega, show i + 1 ≤ j by omega, show i ≤ j by omega, hk]

/-- Reading a store that holds a sequence gives the sequence's byte. -/
@[simp] theorem Memory.read_ofBytes (j : Nat) (bs : List Byte) : (Memory.ofBytes bs).read j = bs[j]? := by
  simp [Memory.ofBytes, Memory.read_ofBytesFrom]

theorem Memory.write_ofBytesFrom_end (i : Nat) (bs : List Byte) (v : Byte) :
    (Memory.ofBytesFrom i bs).write (i + bs.length) v = Memory.ofBytesFrom i (bs ++ [v]) := by
  induction bs generalizing i with
  | nil => rfl
  | cons b bs ih =>
    have h := ih (i + 1)
    simp only [Memory.ofBytesFrom, Memory.write, List.length_cons, List.cons_append]
    rw [if_neg (by omega), if_neg (by omega), ← h]
    congr 2
    omega

/-- Appending to a store that holds a sequence: the store of the longer sequence. -/
@[simp] theorem Memory.writeBytes_ofBytes (as bs : List Byte) :
    (Memory.ofBytes as).writeBytes as.length bs = Memory.ofBytes (as ++ bs) := by
  induction bs generalizing as with
  | nil => simp [Memory.writeBytes]
  | cons b bs ih =>
    have h := Memory.write_ofBytesFrom_end 0 as b
    have h' := ih (as ++ [b])
    simp only [Nat.zero_add] at h
    simp only [Memory.writeBytes, Memory.ofBytes, h]
    simpa [Memory.ofBytes] using h'

theorem Memory.slice_ofBytes (bs : List Byte) (i n : Nat) (h : i + n ≤ bs.length) :
    (Memory.ofBytes bs).slice i n = some ((bs.drop i).take n) := by
  induction n generalizing i with
  | zero => simp [Memory.slice]
  | succ n ih =>
    have hi : i < bs.length := by omega
    simp only [Memory.slice, Memory.read_ofBytes, List.getElem?_eq_getElem hi, ih (i + 1) (by omega), Option.map_some]
    rw [← List.getElem_cons_drop hi, List.take_succ_cons]

/-- The whole of a store that holds a sequence. -/
@[simp] theorem Memory.slice_ofBytes_all (bs : List Byte) :
    (Memory.ofBytes bs).slice 0 bs.length = some bs := by
  rw [Memory.slice_ofBytes bs 0 bs.length (by omega)]
  simp

theorem Memory.map_fst_ofBytesFrom (i : Nat) (bs : List Byte) :
    (Memory.ofBytesFrom i bs).map Prod.fst = List.range' i bs.length := by
  induction bs generalizing i with
  | nil => rfl
  | cons b bs ih => simp [Memory.ofBytesFrom, ih, List.range'_succ]

@[simp] theorem Memory.dense_ofBytes (bs : List Byte) : (Memory.ofBytes bs).dense bs.length = true := by
  simp [Memory.dense, Memory.ofBytes, Memory.map_fst_ofBytesFrom, List.range_eq_range']

/-- A dense buffer holds exactly one byte sequence, of its fill length. -/
theorem Memory.dense_iff (m : Memory) (len : Nat) :
    m.dense len = true ↔ ∃ bs, m = Memory.ofBytes bs ∧ len = bs.length := by
  constructor
  · intro h
    simp only [Memory.dense, decide_eq_true_eq, List.range_eq_range'] at h
    have key : ∀ (m : Memory) (i n : Nat), m.map Prod.fst = List.range' i n →
        m = Memory.ofBytesFrom i (m.map Prod.snd) ∧ n = m.length := by
      intro m
      induction m with
      | nil =>
        intro i n hm
        cases n with
        | zero => simp [Memory.ofBytesFrom]
        | succ n => simp [List.range'_succ] at hm
      | cons c m ih =>
        intro i n hm
        cases n with
        | zero => simp at hm
        | succ n =>
          obtain ⟨a, b⟩ := c
          simp only [List.map_cons, List.range'_succ, List.cons.injEq] at hm
          obtain ⟨h1, h2⟩ := ih _ _ hm.2
          refine ⟨?_, by simp [h2]⟩
          rw [List.map_cons, Memory.ofBytesFrom, ← h1, ← hm.1]
    obtain ⟨h1, h2⟩ := key m 0 len h
    exact ⟨m.map Prod.snd, h1, by simpa using h2⟩
  · rintro ⟨bs, rfl, rfl⟩
    exact Memory.dense_ofBytes bs

theorem Memory.wf_of_dense (m : Memory) (len : Nat) (h : m.dense len = true) : m.wf = true := by
  obtain ⟨bs, rfl, -⟩ := (Memory.dense_iff m len).mp h
  exact Memory.wf_ofBytes bs

end Sys2Proof.Machine
end

