-- ==== Sys2Proof/Laws/Ops.lean ====
section
/-! SUPPORT. What each shared operation can do, said once: if it answers a next state, one of the cases holds. -/

namespace Sys2Proof.Machine

/-! ### Results -/

section
variable {α β : Type}

@[simp] theorem andThen_next (a : α) (s : State) (k : α → State → Res β) : andThen (.next (a, s)) k = k a s := rfl
@[simp] theorem andThen_fault (f : Fault) (k : α → State → Res β) : andThen (.fault f) k = .fault f := rfl
@[simp] theorem andThen_refused (x : Refusal) (k : α → State → Res β) : andThen (.refused x) k = .refused x := rfl

/-- An operation followed by another answers only if both do. -/
theorem andThen_next_iff (r : Res α) (k : α → State → Res β) (b : β) (t : State) :
    andThen r k = .next (b, t) ↔ ∃ a s, r = .next (a, s) ∧ k a s = .next (b, t) := by
  rcases r with ⟨a, s⟩ | f | x <;> simp

/-- An operation followed by another faults where one of them does. -/
theorem andThen_fault_iff (r : Res α) (k : α → State → Res β) (f : Fault) :
    andThen r k = .fault f ↔ r = .fault f ∨ ∃ a s, r = .next (a, s) ∧ k a s = .fault f := by
  rcases r with ⟨a, s⟩ | f | x <;> simp

@[simp] theorem hand_next (a : α) (s : State) (f : α → Output) : hand (.next (a, s)) f = .next (handOut (f a) s) := rfl
@[simp] theorem hand_fault (x : Fault) (f : α → Output) : hand (.fault x : Res α) f = .fault x := rfl
@[simp] theorem hand_refused (x : Refusal) (f : α → Output) : hand (.refused x : Res α) f = .refused x := rfl

/-- What `hand` makes of a result. -/
theorem hand_next_iff (r : Res α) (f : α → Output) (t : State) :
    hand r f = .next t ↔ ∃ a s, r = .next (a, s) ∧ t = handOut (f a) s := by
  rcases r with ⟨a, s⟩ | x | x <;> simp [eq_comm]

end

/-- What a public operation returns to the host. -/
theorem publicReturn_next_iff (s : State) (r : Res ErrorCode) (t : State) :
    publicReturn s r = .next t ↔ s.initialised = true ∧ ∃ e u, r = .next (e, u) ∧ t = returnCode e u := by
  unfold publicReturn
  rcases r with ⟨e, u⟩ | x | x <;> by_cases h : s.initialised = true <;> simp [h, eq_comm]

theorem publicReturn_of_next {s : State} {r : Res ErrorCode} {e : ErrorCode} {u : State}
    (hs : s.initialised = true) (hr : r = .next (e, u)) : publicReturn s r = .next (returnCode e u) := by
  simp [publicReturn, hs, hr]

/-! ### Operands -/

theorem workByte_ofBytes {s : State} {ws : List Byte} (hw : s.work = Memory.ofBytes ws) (hl : s.workLen = ws.length)
    (i : Nat) : workByte s i = ws[i]? := by
  unfold workByte
  split_ifs with h
  · rw [hw, Memory.read_ofBytes]
  · rw [List.getElem?_eq_none (by omega)]

theorem workSlice_ofBytes {s : State} {ws : List Byte} (hw : s.work = Memory.ofBytes ws)
    (hl : s.workLen = ws.length) (i n : Nat) (h : i + n ≤ ws.length) :
    workSlice s i n = some ((ws.drop i).take n) := by
  unfold workSlice
  rw [if_pos (by omega), hw, Memory.slice_ofBytes ws i n h]

theorem intakeBytes_ofBytes {s : State} {bs : List Byte} (hi : s.intake = Memory.ofBytes bs)
    (hl : s.intakeLen = bs.length) : intakeBytes s = some bs := by
  simp [intakeBytes, hi, hl]

/-- The received frame of a `work` that begins with a frame's bytes. -/
theorem receivedFrame_ofBytes {s : State} {f : Frame} {rest : List Byte}
    (hw : s.work = Memory.ofBytes (frameBytes f ++ rest)) (hl : s.workLen = (frameBytes f ++ rest).length)
    (hf : f.payload.length = f.size.toNat) : receivedFrame s = some f := by
  have h2 : workByte s 2 = some f.size := by
    rw [workByte_ofBytes hw hl]
    simp [frameBytes]
  have hlen : Config.headerSize + f.size.toNat + Config.crcSize = (frameBytes f).length := by
    simp [frameBytes, Config.headerSize, Config.crcSize, ← hf]
    omega
  simp only [receivedFrame, h2, hlen]
  rw [workSlice_ofBytes hw hl 0 _ (by simp)]
  simp [parseFrame_frameBytes f hf]

theorem payloadOf_eq_some {size : Nat} {data p : List Byte} :
    payloadOf size data = some p ↔ size ≤ data.length ∧ p = data.take size := by
  unfold payloadOf
  by_cases h : size ≤ data.length <;> simp [h, eq_comm]

/-! ### READ -/

/-- READ answers the oldest unread bytes within its bound, and they are gone from the transport. -/
theorem callRead_next_iff (max : Nat) (s : State) (new : List Byte) (t : State) :
    callRead max s = .next (new, t) ↔
      new = readAnswer max s ∧ t = afterRead max s ∧ (readAnswer max s).length ≤ max := by
  unfold callRead
  split_ifs with h
  · simp; omega
  · simp only [Host.Outcome.next.injEq, Prod.mk.injEq]
    constructor
    · rintro ⟨rfl, rfl⟩; exact ⟨rfl, rfl, by omega⟩
    · rintro ⟨rfl, rfl, -⟩; exact ⟨rfl, rfl⟩

theorem callRead_of_le {max : Nat} {s : State} (h : (readAnswer max s).length ≤ max) :
    callRead max s = .next (readAnswer max s, afterRead max s) :=
  (callRead_next_iff _ _ _ _).mpr ⟨rfl, rfl, h⟩

theorem callRead_ne_fault (max : Nat) (s : State) (f : Fault) : callRead max s ≠ .fault f := by
  unfold callRead
  split_ifs <;> simp

/-- What READ returns and what it leaves: together, what was waiting. -/
theorem readAnswer_append_rx (max : Nat) (s : State) : readAnswer max s ++ (afterRead max s).rx = s.rx := by
  by_cases h : s.rx = [] <;> simp [readAnswer, h]

/-- READ's answer where the platform's next count is listed. -/
theorem readAnswer_listed {max n : Nat} {s : State} {ns : List Nat} (h : s.counts = n :: ns) :
    readAnswer max s = s.rx.take n := by
  by_cases hr : s.rx = [] <;> simp [readAnswer, readCount, h, hr]

/-- A READ whose count is not listed keeps its bound. -/
theorem readAnswer_free {max : Nat} {s : State} (h : s.counts = []) : (readAnswer max s).length ≤ max := by
  by_cases hr : s.rx = []
  · simp [readAnswer, hr]
  · have := Nat.mod_lt (Config.freeReadCount s.freeCount) (Nat.succ_pos (min max s.rx.length))
    simp only [readAnswer, readCount, h, List.isEmpty_iff, hr, if_false, List.length_take]
    simp only [Nat.succ_eq_add_one] at this
    omega

/-! ### The transmit path -/

theorem busy_iff (s : State) : busy s = true ↔ s.state ≠ .pending := by simp [busy]

theorem busy_eq_false_iff (s : State) : busy s = false ↔ s.state = .pending := by simp [busy]

/-- What the last two steps of CALL can do. -/
theorem transmit_cases (stuffed : List Byte) (s : State) :
    (s.txCapacity < stuffed.length ∧ transmit stuffed s = (.overflow, unspecifiedTx s)) ∨
    (stuffed.length ≤ s.txCapacity ∧ transmit stuffed s = (.none, afterWrite stuffed (setTx stuffed s))) := by
  unfold transmit
  by_cases h : s.txCapacity < stuffed.length
  · exact .inl ⟨h, if_pos h⟩
  · exact .inr ⟨by omega, if_neg h⟩

/-- What CRC.GEN hands over: the checksum of R114, or a free value where the payload is shorter than `size`. -/
theorem crcGenAnswer_cases (address command size : Byte) (payload : List Byte) (s : State) :
    (size.toNat ≤ payload.length ∧ crcGenAnswer address command size payload s =
      (gen s.crcTable address command size (payload.take size.toNat), s)) ∨
    (payload.length < size.toNat ∧ crcGenAnswer address command size payload s =
      (Config.freeCrc s.freeCount, { s with freeCount := s.freeCount + 1 })) := by
  by_cases hl : size.toNat ≤ payload.length
  · exact .inl ⟨hl, by simp [crcGenAnswer, payloadOf, hl]⟩
  · exact .inr ⟨by omega, by simp [crcGenAnswer, payloadOf, hl]⟩

/-- What CALL can do: refused for short data, or one of its three answers: the size, the guard, the transmission. -/
theorem callCore_cases (address command : Byte) (size : Nat) (data : List Byte) (s : State) :
    (data.length < size ∧ callCore address command size data s = .refused .shortData) ∨
    (size ≤ data.length ∧
      ((252 < size ∧ callCore address command size data s = .next (.invalidData, s)) ∨
       (size ≤ 252 ∧ s.state ≠ .pending ∧ callCore address command size data s = .next (.busy, s)) ∨
       (size ≤ 252 ∧ s.state = .pending ∧ callCore address command size data s =
          .next (transmit (encodedBytes (buildFrame s.crcTable address command (data.take size))) s)))) := by
  have hm : Config.maxPayload = 252 := rfl
  by_cases hl : size ≤ data.length
  · refine .inr ⟨hl, ?_⟩
    simp only [callCore, payloadOf_eq_some.mpr ⟨hl, rfl⟩, hm]
    by_cases h1 : 252 < size
    · exact .inl ⟨h1, if_pos h1⟩
    · rw [if_neg h1]
      by_cases h2 : s.state = .pending
      · exact .inr (.inr ⟨by omega, h2, if_neg (by simp [busy, h2])⟩)
      · exact .inr (.inl ⟨by omega, h2, if_pos (by simp [busy, h2])⟩)
  · exact .inl ⟨by omega, by simp [callCore, payloadOf, hl]⟩

/-- What CALL can do where it answers: the size, the guard, or the frame transmitted. -/
theorem callCore_next_cases {address command : Byte} {size : Nat} {data : List Byte} {s t : State} {e : ErrorCode}
    (h : callCore address command size data s = .next (e, t)) :
    size ≤ data.length ∧
    ((252 < size ∧ e = .invalidData ∧ t = s) ∨
     (size ≤ 252 ∧ s.state ≠ .pending ∧ e = .busy ∧ t = s) ∨
     (size ≤ 252 ∧ s.state = .pending ∧
      (e, t) = transmit (encodedBytes (buildFrame s.crcTable address command (data.take size))) s)) := by
  rcases callCore_cases address command size data s with ⟨-, hc⟩ | ⟨hl, ⟨h1, hc⟩ | ⟨h1, h2, hc⟩ | ⟨h1, h2, hc⟩⟩ <;>
    rw [hc] at h <;> simp only [Host.Outcome.next.injEq, reduceCtorEq] at h
  · exact ⟨hl, .inl ⟨h1, (Prod.mk.inj h).1.symm, (Prod.mk.inj h).2.symm⟩⟩
  · exact ⟨hl, .inr (.inl ⟨h1, h2, (Prod.mk.inj h).1.symm, (Prod.mk.inj h).2.symm⟩)⟩
  · exact ⟨hl, .inr (.inr ⟨h1, h2, h.symm⟩)⟩

theorem callCore_ne_fault (address command : Byte) (size : Nat) (data : List Byte) (s : State) (f : Fault) :
    callCore address command size data s ≠ .fault f := by
  rcases callCore_cases address command size data s with ⟨-, hc⟩ | ⟨-, ⟨-, hc⟩ | ⟨-, -, hc⟩ | ⟨-, -, hc⟩⟩ <;> simp [hc]

/-! ### The frame assembler -/

/-- What RX.PENDING does with the bytes of its READ. -/
theorem classifyFirst_cases (now : U32) (new : List Byte) (s : State) :
    (new = [] ∧ classifyFirst now new s = .next (.none, s)) ∨
    (∃ rest, new = Config.preamble :: rest ∧ classifyFirst now new s = .next (.none, beginFrame now s)) ∨
    (∃ b rest, b ≠ Config.preamble ∧ new = b :: rest ∧ classifyFirst now new s = .next (.invalidData, s)) := by
  cases new with
  | nil => exact .inl ⟨rfl, rfl⟩
  | cons b rest =>
    by_cases h : b = Config.preamble
    · subst h
      exact .inr (.inl ⟨rest, rfl, by simp [classifyFirst]⟩)
    · exact .inr (.inr ⟨b, rest, h, rfl, by simp [classifyFirst, h]⟩)

/-- What RX.PENDING can do. -/
theorem rxPending_next_cases {now : U32} {s t : State} {e : ErrorCode} (h : rxPending now s = .next (e, t)) :
    (readAnswer 1 s).length ≤ 1 ∧
    ((e = .none ∧ t = afterRead 1 s) ∨ (e = .none ∧ t = beginFrame now (afterRead 1 s)) ∨
     (e = .invalidData ∧ t = afterRead 1 s)) := by
  obtain ⟨new, u, hr, hk⟩ := (andThen_next_iff _ _ _ _).mp h
  obtain ⟨rfl, rfl, hle⟩ := (callRead_next_iff _ _ _ _).mp hr
  refine ⟨hle, ?_⟩
  rcases classifyFirst_cases now (readAnswer 1 s) (afterRead 1 s) with ⟨-, hc⟩ | ⟨_, -, hc⟩ | ⟨_, _, -, -, hc⟩ <;>
    rw [hc] at hk <;> simp only [Host.Outcome.next.injEq, Prod.mk.injEq] at hk
  · exact .inl ⟨hk.1.symm, hk.2.symm⟩
  · exact .inr (.inl ⟨hk.1.symm, hk.2.symm⟩)
  · exact .inr (.inr ⟨hk.1.symm, hk.2.symm⟩)

/-- The withheld byte and the rest: together, the accumulated intake. -/
theorem splitHeld_cases (bs : List Byte) :
    (∃ body, bs = body ++ [Config.esc] ∧ splitHeld bs = (body, true)) ∨
    (bs.getLast? ≠ some Config.esc ∧ splitHeld bs = (bs, false)) := by
  unfold splitHeld
  by_cases h : bs.getLast? = some Config.esc
  · refine .inl ⟨bs.dropLast, ?_, if_pos h⟩
    have hne : bs ≠ [] := by rintro rfl; simp at h
    rw [List.getLast?_eq_some_getLast hne, Option.some.injEq] at h
    rw [← h, List.dropLast_concat_getLast]
  · exact .inr ⟨h, if_neg h⟩

/-- What destuffing the complete part of the intake can do. -/
theorem destuffBody_cases (body : List Byte) (hold : Bool) (s : State) :
    (body = [] ∧ destuffBody body hold s = .next (.progress, keepIntake hold s)) ∨
    (∃ kind, destuffBytes body (Config.capacity - s.workLen) = .fail kind ∧
      destuffBody body hold s = .next (.aborted .invalidData, abort s)) ∨
    (∃ decoded, body ≠ [] ∧ destuffBytes body (Config.capacity - s.workLen) = .ok decoded ∧
      destuffBody body hold s = .next (.progress, keepIntake hold (appendWork decoded s))) := by
  cases body with
  | nil => exact .inl ⟨rfl, rfl⟩
  | cons b bs =>
    cases hd : destuffBytes (b :: bs) (Config.capacity - s.workLen) with
    | ok d => exact .inr (.inr ⟨d, by simp, rfl, by simp [destuffBody, hd]⟩)
    | fail k => exact .inr (.inl ⟨k, rfl, by simp [destuffBody, hd]⟩)

/-- What RX.READ_DESTUFF can do where `intake` and `work` hold byte sequences: overflow, no progress, a stray
preamble, a codec failure, or progress. The last case says what is decoded and what is withheld. -/
theorem rxReadDestuff_next_cases {s t : State} {r : ReadResult} {held ws : List Byte}
    (hi : s.intake = Memory.ofBytes held) (hil : s.intakeLen = held.length)
    (hw : s.work = Memory.ofBytes ws) (hwl : s.workLen = ws.length)
    (h : rxReadDestuff s = .next (r, t)) :
    (s.intakeCapacity < s.intakeLen + s.need.toNat ∧ r = .aborted .overflow ∧ t = abort s) ∨
    (s.intakeLen + s.need.toNat ≤ s.intakeCapacity ∧ (readAnswer s.need.toNat s).length ≤ s.need.toNat ∧
      ((readAnswer s.need.toNat s = [] ∧ r = .noProgress ∧ t = afterRead s.need.toNat s) ∨
       (r = .aborted .invalidData ∧
          t = abort (appendIntake (readAnswer s.need.toNat s) (afterRead s.need.toNat s))) ∨
       (∃ body hold decoded, readAnswer s.need.toNat s ≠ [] ∧ Config.preamble ∉ readAnswer s.need.toNat s ∧
          splitHeld (held ++ readAnswer s.need.toNat s) = (body, hold) ∧
          destuffBytes body (Config.capacity - ws.length) = .ok decoded ∧ r = .progress ∧
          t = keepIntake hold
            { afterRead s.need.toNat s with
              intake := Memory.ofBytes (held ++ readAnswer s.need.toNat s)
              intakeLen := (held ++ readAnswer s.need.toNat s).length
              work := Memory.ofBytes (ws ++ decoded)
              workLen := (ws ++ decoded).length }))) := by
  unfold rxReadDestuff at h
  split_ifs at h with hcap
  · simp only [Host.Outcome.next.injEq, Prod.mk.injEq] at h
    exact .inl ⟨hcap, h.1.symm, h.2.symm⟩
  refine .inr ⟨by omega, ?_⟩
  obtain ⟨new, u, hr, hk⟩ := (andThen_next_iff _ _ _ _).mp h
  obtain ⟨rfl, rfl, hle⟩ := (callRead_next_iff _ _ _ _).mp hr
  refine ⟨hle, ?_⟩
  generalize hnew : readAnswer s.need.toNat s = new at *
  cases new with
  | nil =>
    simp only [takeNew, Host.Outcome.next.injEq, Prod.mk.injEq] at hk
    exact .inl ⟨rfl, hk.1.symm, hk.2.symm⟩
  | cons b bs =>
    simp only [takeNew] at hk
    split_ifs at hk with hp
    · simp only [Host.Outcome.next.injEq, Prod.mk.injEq] at hk
      exact .inr (.inl ⟨hk.1.symm, hk.2.symm⟩)
    have hacc : intakeBytes (appendIntake (b :: bs) (afterRead s.need.toNat s)) = some (held ++ b :: bs) := by
      refine intakeBytes_ofBytes ?_ ?_
      · simp [hi, hil]
      · simp [hil]
    simp only [destuffIntake, hacc] at hk
    rcases hsp : splitHeld (held ++ b :: bs) with ⟨body, hold⟩
    rw [hsp] at hk
    have keep : ∀ decoded, keepIntake hold
        (appendWork decoded (appendIntake (b :: bs) (afterRead s.need.toNat s))) =
        keepIntake hold
          { afterRead s.need.toNat s with
            intake := Memory.ofBytes (held ++ b :: bs)
            intakeLen := (held ++ b :: bs).length
            work := Memory.ofBytes (ws ++ decoded)
            workLen := (ws ++ decoded).length } := by
      intro decoded
      simp [appendWork, appendIntake, hi, hil, hw, hwl]
    rcases destuffBody_cases body hold (appendIntake (b :: bs) (afterRead s.need.toNat s)) with
      ⟨hb, hd⟩ | ⟨kind, -, hd⟩ | ⟨decoded, -, hok, hd⟩ <;> rw [hd] at hk <;>
      simp only [Host.Outcome.next.injEq, Prod.mk.injEq] at hk
    · refine .inr (.inr ⟨body, hold, [], by simp, hp, rfl, by simp [hb], hk.1.symm, ?_⟩)
      have h0 := keep []
      simp only [appendWork, Memory.writeBytes, List.length_nil, Nat.add_zero] at h0
      rw [← h0]
      exact hk.2.symm
    · exact .inr (.inl ⟨hk.1.symm, hk.2.symm⟩)
    · refine .inr (.inr ⟨body, hold, decoded, by simp, hp, rfl, ?_, hk.1.symm, ?_⟩)
      · simpa [hwl] using hok
      · rw [← keep, ← hk.2]

/-- What RX.REPLY can do: the nested CALL with the header of the reply. -/
theorem rxReply_next {reply : Reply} {s t : State} {e : ErrorCode} (h : rxReply reply s = .next (e, t)) :
    ∃ a c, workByte s 0 = some a ∧ workByte s 1 = some c ∧
      callCore (replyHeaderOf s.replyHeader a c s.ownAddress).1 (replyHeaderOf s.replyHeader a c s.ownAddress).2
        reply.size (replyData reply) s = .next (e, t) := by
  unfold rxReply at h
  cases h0 : workByte s 0 with
  | none => rw [h0] at h; cases h
  | some a =>
    cases h1 : workByte s 1 with
    | none => rw [h0, h1] at h; cases h
    | some c => rw [h0, h1] at h; exact ⟨a, c, rfl, rfl, h⟩

/-- The delivered frame: the registers of `Pending`, and the handler's event. -/
abbrev delivered (f : Frame) (s : State) : State := afterHandle f.command f.payload f.size.toNat (toPending s)

/-- What delivering a frame can do: discard it, hand it over without a reply, or reply. -/
theorem deliver_next_cases {f : Frame} {s t : State} {e : ErrorCode} (h : deliver f s = .next (e, t)) :
    (accepts s.ownAddress f.address = false ∧ e = .none ∧ t = toPending s) ∨
    (accepts s.ownAddress f.address = true ∧
      ((nonEmptyReply (handleAnswer (toPending s)) = false ∧ e = .none ∧ t = delivered f s) ∨
       (nonEmptyReply (handleAnswer (toPending s)) = true ∧
          rxReply (handleAnswer (toPending s)) (delivered f s) = .next (e, t)))) := by
  simp only [deliver] at h
  by_cases ha : accepts s.ownAddress f.address = true
  · rw [if_pos ha] at h
    refine .inr ⟨ha, ?_⟩
    unfold afterHandler at h
    by_cases hn : nonEmptyReply (handleAnswer (toPending s)) = true
    · rw [if_pos hn] at h
      exact .inr ⟨hn, h⟩
    · rw [if_neg hn] at h
      simp only [Host.Outcome.next.injEq, Prod.mk.injEq] at h
      exact .inl ⟨by simpa using hn, h.1.symm, h.2.symm⟩
  · rw [if_neg ha] at h
    simp only [Host.Outcome.next.injEq, Prod.mk.injEq] at h
    exact .inl ⟨by simpa using ha, h.1.symm, h.2.symm⟩

/-- What RX.DISPATCH can do: a bad checksum aborts, a good one delivers. -/
theorem rxDispatch_next_cases {s t : State} {e : ErrorCode} (h : rxDispatch s = .next (e, t)) :
    ∃ f, receivedFrame s = some f ∧
      ((check s.crcTable (frameBytes f) = false ∧ e = .crc ∧ t = abort s) ∨
       (check s.crcTable (frameBytes f) = true ∧ deliver f s = .next (e, t))) := by
  unfold rxDispatch at h
  cases hf : receivedFrame s with
  | none => rw [hf] at h; cases h
  | some f =>
    rw [hf] at h
    simp only at h
    by_cases hc : check s.crcTable (frameBytes f) = true
    · rw [if_pos hc] at h
      exact ⟨f, rfl, .inr ⟨hc, h⟩⟩
    · rw [if_neg hc] at h
      simp only [Host.Outcome.next.injEq, Prod.mk.injEq] at h
      exact ⟨f, rfl, .inl ⟨by simpa using hc, h.1.symm, h.2.symm⟩⟩

/-- What RX.HEADER can do after RX.READ_DESTUFF. -/
theorem headerStep_next_cases {r : ReadResult} {s t : State} {e : ErrorCode} (h : headerStep r s = .next (e, t)) :
    (r = .noProgress ∧ e = .none ∧ t = s) ∨ (r = .aborted e ∧ t = s) ∨
    (r = .progress ∧
      ((s.workLen < 3 ∧ e = .none ∧ t = setNeed (3 - s.workLen) s) ∨
       (3 ≤ s.workLen ∧ ∃ size, workByte s 2 = some size ∧
          ((252 < size.toNat ∧ e = .invalidData ∧ t = abort (setNeed 0 s)) ∨
           (size.toNat ≤ 252 ∧ e = .none ∧
              t = setNeed (size.toNat + 1 - (s.workLen - 3)) { s with state := .completeReceiving }))))) := by
  cases r with
  | noProgress =>
    simp only [headerStep, Host.Outcome.next.injEq, Prod.mk.injEq] at h
    exact .inl ⟨rfl, h.1.symm, h.2.symm⟩
  | aborted e' =>
    simp only [headerStep, Host.Outcome.next.injEq, Prod.mk.injEq] at h
    exact .inr (.inl ⟨by rw [h.1], h.2.symm⟩)
  | progress =>
    refine .inr (.inr ⟨rfl, ?_⟩)
    simp only [headerStep, Config.headerSize] at h
    split_ifs at h with hn
    · refine .inr ⟨by omega, ?_⟩
      simp only [headerDone, Config.maxPayload, Config.capacity, Config.headerSize, Config.crcSize] at h
      have hwb : workByte (setNeed (3 - s.workLen) s) 2 = workByte s 2 := rfl
      rw [hwb] at h
      cases hz : workByte s 2 with
      | none => rw [hz] at h; cases h
      | some size =>
        rw [hz] at h
        simp only at h
        refine ⟨size, rfl, ?_⟩
        split_ifs at h with hbig <;> simp only [Host.Outcome.next.injEq, Prod.mk.injEq] at h
        · exact .inl ⟨by omega, h.1.symm, by rw [← h.2, hn]⟩
        · exact .inr ⟨by omega, h.1.symm, by rw [← h.2]; rfl⟩
    · simp only [Host.Outcome.next.injEq, Prod.mk.injEq] at h
      exact .inl ⟨by omega, h.1.symm, h.2.symm⟩

/-- What RX.COMPLETE can do after RX.READ_DESTUFF. -/
theorem completeStep_next_cases {r : ReadResult} {s t : State} {e : ErrorCode}
    (h : completeStep r s = .next (e, t)) :
    (r = .noProgress ∧ e = .none ∧ t = s) ∨ (r = .aborted e ∧ t = s) ∨
    (r = .progress ∧ ∃ size, workByte s 2 = some size ∧
      ((s.workLen < 3 + size.toNat + 1 ∧ e = .none ∧ t = setNeed (3 + size.toNat + 1 - s.workLen) s) ∨
       (3 + size.toNat + 1 ≤ s.workLen ∧ rxDispatch (setNeed 0 s) = .next (e, t)))) := by
  cases r with
  | noProgress =>
    simp only [completeStep, Host.Outcome.next.injEq, Prod.mk.injEq] at h
    exact .inl ⟨rfl, h.1.symm, h.2.symm⟩
  | aborted e' =>
    simp only [completeStep, Host.Outcome.next.injEq, Prod.mk.injEq] at h
    exact .inr (.inl ⟨by rw [h.1], h.2.symm⟩)
  | progress =>
    refine .inr (.inr ⟨rfl, ?_⟩)
    simp only [completeStep, Config.headerSize, Config.crcSize] at h
    cases hz : workByte s 2 with
    | none => rw [hz] at h; cases h
    | some size =>
      rw [hz] at h
      simp only at h
      refine ⟨size, rfl, ?_⟩
      split_ifs at h with hm
      · simp only [Host.Outcome.next.injEq, Prod.mk.injEq] at h
        exact .inl ⟨by omega, h.1.symm, h.2.symm⟩
      · refine .inr ⟨by omega, ?_⟩
        have : 3 + size.toNat + 1 - s.workLen = 0 := by omega
        rwa [this] at h

/-- What POLL can do after its clock sample: the timeout, or the step of the state. -/
theorem pollWith_cases (now : U32) (s : State) :
    (expired now s = true ∧ pollWith now s = .next (.timeout, abort s)) ∨
    (expired now s = false ∧
      ((s.state = .pending ∧ pollWith now s = rxPending now s) ∨
       (s.state = .headerReceiving ∧ pollWith now s = andThen (rxReadDestuff s) headerStep) ∨
       (s.state = .completeReceiving ∧ pollWith now s = andThen (rxReadDestuff s) completeStep))) := by
  unfold pollWith
  by_cases h : expired now s = true
  · exact .inl ⟨h, if_pos h⟩
  · rw [if_neg h]
    refine .inr ⟨by simpa using h, ?_⟩
    cases hs : s.state
    · exact .inl ⟨rfl, rfl⟩
    · exact .inr (.inl ⟨rfl, rfl⟩)
    · exact .inr (.inr ⟨rfl, rfl⟩)

/-! ### Bytes met on the link -/

theorem meetByte_next_cases {b : Byte} {s t : State} (h : meetByte b s = .next t) :
    hostPoll (offerByte b s) = .next t ∨ ∃ u, hostPoll (offerByte b s) = .next u ∧ hostPoll u = .next t := by
  unfold meetByte at h
  cases hp : hostPoll (offerByte b s) with
  | next u =>
    rw [hp] at h
    simp only at h
    split_ifs at h with hl
    · exact .inr ⟨u, rfl, h⟩
    · exact .inl h
  | fault x => rw [hp] at h; cases h
  | refused x => rw [hp] at h; cases h

theorem meetBytes_cons (b : Byte) (bs : List Byte) (s t : State) :
    meetBytes (b :: bs) s = .next t ↔ ∃ u, meetByte b s = .next u ∧ meetBytes bs u = .next t := by
  simp only [meetBytes]
  cases meetByte b s <;> simp

theorem meetBytes_append (as bs : List Byte) (s t : State) :
    meetBytes (as ++ bs) s = .next t ↔ ∃ u, meetBytes as s = .next u ∧ meetBytes bs u = .next t := by
  induction as generalizing s with
  | nil => simp [meetBytes]
  | cons a as ih =>
    simp only [List.cons_append, meetBytes_cons, ih]
    constructor
    · rintro ⟨u, h1, v, h2, h3⟩; exact ⟨v, ⟨u, h1, h2⟩, h3⟩
    · rintro ⟨v, ⟨u, h1, h2⟩, h3⟩; exact ⟨u, h1, v, h2, h3⟩

/-- A property that every POLL keeps, and that does not speak of the link's bytes and counts, is kept by the bytes met
on the link. -/
theorem meetBytes_keeps (P : State → Prop) (hoffer : ∀ b s, P s → P (offerByte b s))
    (hpoll : ∀ s t, P s → hostPoll s = .next t → P t) (bs : List Byte) (s t : State) (hs : P s)
    (h : meetBytes bs s = .next t) : P t := by
  induction bs generalizing s with
  | nil => simp only [meetBytes, Host.Outcome.next.injEq] at h; exact h ▸ hs
  | cons b bs ih =>
    obtain ⟨u, hu, ht⟩ := (meetBytes_cons b bs s t).mp h
    refine ih u ?_ ht
    rcases meetByte_next_cases hu with hp | ⟨v, hv, hp⟩
    · exact hpoll _ _ (hoffer b s hs) hp
    · exact hpoll _ _ (hpoll _ _ (hoffer b s hs) hv) hp

/-! ### The clock's answers -/

@[simp] theorem clockAnswer_zero (s : State) : clockAnswer s 0 = nowAnswer s := by
  cases h : s.nows <;> simp [clockAnswer, nowAnswer, h]

/-- After one NOW the answers that follow come one earlier. -/
theorem clockAnswer_afterNow (s : State) (k : Nat) : clockAnswer (afterNow s) k = clockAnswer s (k + 1) := by
  cases h : s.nows with
  | nil => simp [clockAnswer, h, Nat.add_assoc, Nat.add_comm 1]
  | cons v vs => simp [clockAnswer, h]

/-- The clock's answers depend on the listed ones and the counter of free values only. -/
theorem clockAnswer_congr {s t : State} (hn : s.nows = t.nows) (hf : s.freeCount = t.freeCount) (k : Nat) :
    clockAnswer s k = clockAnswer t k := by
  simp [clockAnswer, hn, hf]

/-- Whether a clock answer expires depends on `timer_start` and `timeout_ms` only. -/
theorem expired_congr {s t : State} (hs : s.timerStart = t.timerStart) (ht : s.timeoutMs = t.timeoutMs) (now : U32) :
    expired now s = expired now t := by
  simp [expired, timerArmed, hs, ht]

/-! ### Decoded bytes -/

/-- Decoded bytes that `work` holds are listed from index 0 on. -/
@[simp] theorem holdBytes_work (bytes : List Byte) (s : State) : (holdBytes bytes s).work = Memory.ofBytes bytes := by
  have h := Memory.writeBytes_ofBytes [] bytes
  simpa [holdBytes, appendWork, clearWork, Memory.ofBytes, Memory.ofBytesFrom] using h

/-- Holding decoded bytes writes `work` and its fill length, and nothing else. -/
theorem holdBytes_eq (bytes : List Byte) (s : State) :
    holdBytes bytes s = { s with work := Memory.ofBytes bytes, workLen := bytes.length } := by
  rw [← holdBytes_work bytes s, ← holdBytes_workLen (bs := bytes) (s := s)]
  rfl

/-- What the engine does with decoded bytes: more than `work` holds, header incomplete, size above 252, bytes missing,
or a frame. -/
theorem decodedCore_cases (bytes : List Byte) (s : State) :
    (256 < bytes.length ∧ decodedCore bytes s = .next (.invalidData, abort s)) ∨
    (bytes.length < 3 ∧ decodedCore bytes s = .next (.none,
      setNeed (3 - bytes.length) { holdBytes bytes s with state := .headerReceiving })) ∨
    (bytes.length ≤ 256 ∧ ∃ size, bytes[2]? = some size ∧
      ((252 < size.toNat ∧ decodedCore bytes s = .next (.invalidData, abort s)) ∨
       (size.toNat ≤ 252 ∧ bytes.length < 3 + size.toNat + 1 ∧ decodedCore bytes s = .next (.none,
          setNeed (3 + size.toNat + 1 - bytes.length) { holdBytes bytes s with state := .completeReceiving })) ∨
       (size.toNat ≤ 252 ∧ 3 + size.toNat + 1 ≤ bytes.length ∧
          decodedCore bytes s = rxDispatch (holdBytes bytes s)))) := by
  unfold decodedCore
  by_cases hc : 256 < bytes.length
  · exact .inl ⟨hc, if_pos hc⟩
  rw [if_neg hc]
  unfold decodedFits
  have hm : Config.maxPayload = 252 := rfl
  cases hz : bytes[2]? with
  | none => exact .inr (.inl ⟨by have := List.getElem?_eq_none_iff.mp hz; omega, rfl⟩)
  | some size =>
    refine .inr (.inr ⟨by omega, size, rfl, ?_⟩)
    simp only [hm]
    by_cases h1 : 252 < size.toNat
    · exact .inl ⟨h1, if_pos h1⟩
    · rw [if_neg h1]
      by_cases h2 : bytes.length < 3 + size.toNat + 1
      · exact .inr (.inl ⟨by omega, h2, if_pos h2⟩)
      · exact .inr (.inr ⟨by omega, by omega, if_neg h2⟩)

/-! ### The step -/

/-- What one step can do: nothing when no word is pending, else the decoded operation without its word, or the bytes of
a word that decodes to none. -/
theorem step_next_cases {s t : State} (h : step s = .next t) :
    (s.port = [] ∧ t = s) ∨
    (∃ w rest i, s.port = w :: rest ∧ decode w = .ok i ∧ exec i { s with port := rest } = .next t) ∨
    (∃ w rest e, s.port = w :: rest ∧ decode w = .error e ∧ meetUndecoded e w { s with port := rest } = .next t) := by
  unfold step fetch at h
  cases hp : s.port with
  | nil => rw [hp] at h; simp only [Host.Outcome.next.injEq] at h; exact .inl ⟨rfl, h.symm⟩
  | cons w rest =>
    rw [hp] at h
    simp only at h
    cases hd : decode w with
    | error e => rw [hd] at h; exact .inr (.inr ⟨w, rest, e, rfl, hd, h⟩)
    | ok i => rw [hd] at h; exact .inr (.inl ⟨w, rest, i, rfl, hd, h⟩)

/-- What a word that decodes to no operation can do: its bytes are met on the link, or stand decoded in `work`. -/
theorem meetUndecoded_next_cases {e : DecodeError} {w : PortWord} {s t : State}
    (h : meetUndecoded e w s = .next t) :
    (∃ bytes, (w = .wire bytes ∨ w = .encoded bytes) ∧ meetBytes bytes s = .next t) ∨
    (∃ bytes, w = .frame bytes ∧ hand (decodedCore bytes s) .code = .next t) := by
  cases w with
  | op _ _ _ _ _ => cases h
  | wire bytes => exact .inl ⟨bytes, .inl rfl, h⟩
  | frame bytes => exact .inr ⟨bytes, rfl, h⟩
  | encoded bytes => exact .inl ⟨bytes, .inr rfl, h⟩
  | result _ => cases h
  | stateCode _ => cases h

end Sys2Proof.Machine
end

