-- ==== Sys2Proof/Laws/PerInstr.lean ====
section
/-! SUPPORT. Statements about every instruction as syntax, one lemma per constructor. Family DecodeEncode: what the
encoder writes for a well-formed instruction decodes to that instruction. -/

namespace Sys2Proof.Laws.DecodeEncode

open Sys2Proof.Machine

/-- Decoding the word of a well-formed instruction gives the instruction back, operands and all. -/
def Statement (i : Instr) : Prop := wellFormed i = true → ∀ w, encode i = some w → decode w = .ok i

/-- An instruction without an encoding has nothing to decode. -/
theorem of_none {i : Instr} (h : encode i = none) : Statement i := by
  intro _ w hw
  rw [h] at hw
  cases hw

/-- An instruction whose one word decodes to it. -/
theorem of_word {i : Instr} {w : PortWord} (he : encode i = some w) (hd : wellFormed i = true → decode w = .ok i) :
    Statement i := by
  intro hwf v hv
  rw [he, Option.some.injEq] at hv
  exact hv ▸ hd hwf

theorem frame_length {f : Frame} (h : f.wellFormed = true) :
    f.payload.length = f.size.toNat ∧ (frameBytes f).length ≤ Config.capacity := by
  simp only [Frame.wellFormed, Bool.and_eq_true, decide_eq_true_eq] at h
  refine ⟨h.1.1, ?_⟩
  have := h.1.2
  simp only [frameBytes_length, h.1.1]
  simp only [Config.maxPayload, Config.capacity, Config.headerSize, Config.crcSize] at *
  omega

theorem init : Statement (.init) := of_word rfl fun _ => rfl
theorem poll : Statement (.poll) := of_word rfl fun _ => rfl
theorem call (address : Byte) (command : Byte) (size : Nat) (data : List Byte) : Statement (.call address command size data) := of_word rfl fun _ => rfl
theorem crcBuildTable (polynomial : Byte) : Statement (.crcBuildTable polynomial) := of_none rfl
theorem crcFold (data : List Byte) (start : Byte) : Statement (.crcFold data start) := of_none rfl
theorem crcSeed : Statement (.crcSeed) := of_none rfl
theorem crcGen (address : Byte) (command : Byte) (size : Byte) (payload : List Byte) : Statement (.crcGen address command size payload) := of_none rfl
theorem crcCheck (frame : List Byte) : Statement (.crcCheck frame) := of_none rfl
theorem stuff (plaintext : List Byte) : Statement (.stuff plaintext) := of_none rfl
theorem destuff (stuffed : List Byte) (maxOut : Nat) : Statement (.destuff stuffed maxOut) := of_none rfl
theorem tmrArm (now : U32) : Statement (.tmrArm now) := of_none rfl
theorem tmrCheck (now : U32) : Statement (.tmrCheck now) := of_none rfl
theorem tmrDisarm : Statement (.tmrDisarm) := of_none rfl
theorem rxPending (now : U32) : Statement (.rxPending now) := of_none rfl
theorem rxReadDestuff : Statement (.rxReadDestuff) := of_none rfl
theorem rxHeader : Statement (.rxHeader) := of_none rfl
theorem rxComplete : Statement (.rxComplete) := of_none rfl
theorem rxDispatch : Statement (.rxDispatch) := of_none rfl
theorem rxFilter (frameAddress : Byte) : Statement (.rxFilter frameAddress) := of_none rfl
theorem rxReply (reply : Reply) : Statement (.rxReply reply) := of_none rfl
theorem rxAbort (code : ErrorCode) : Statement (.rxAbort code) := of_none rfl
theorem read (max : Nat) : Statement (.read max) := of_none rfl
theorem write (bytes : List Byte) : Statement (.write bytes) := of_none rfl
theorem now : Statement (.now) := of_none rfl
theorem handle (cmd : Byte) (data : List Byte) (size : Nat) : Statement (.handle cmd data size) := of_none rfl
theorem preamble : Statement (.preamble) := of_word rfl fun _ => rfl
theorem escPreamble : Statement (.escPreamble) := of_word rfl fun _ => rfl
theorem escEsc : Statement (.escEsc) := of_word rfl fun _ => rfl
theorem escIllegal (m : Byte) : Statement (.escIllegal m) := 
  of_word rfl fun h => by
    simp only [wellFormed, Bool.and_eq_true, decide_eq_true_eq] at h
    simp [decode, decodeWire, h.1, h.2]
theorem literal (b : Byte) : Statement (.literal b) := 
  of_word rfl fun h => by
    simp only [wellFormed, Bool.and_eq_true, decide_eq_true_eq] at h
    simp [decode, decodeWire, h.1, h.2]
theorem frm (f : Frame) : Statement (.frm f) := 
  of_word rfl fun h => by
    simp [decode, decodeFrame, parseFrame_frameBytes f (frame_length h).1]
theorem enc (f : Frame) : Statement (.enc f) := 
  of_word rfl fun h => by
    obtain ⟨hp, hl⟩ := frame_length h
    simp only [decode, encodedBytes_eq, decodeEncoded, if_true]
    rw [if_neg (preamble_not_mem_stuffTail _), destuffBytes_stuffTail _ _ hl]
    simp [parseFrame_frameBytes f hp]
theorem codeNone : Statement (.codeNone) := of_word rfl fun _ => rfl
theorem codeTimeout : Statement (.codeTimeout) := of_word rfl fun _ => rfl
theorem codeCrc : Statement (.codeCrc) := of_word rfl fun _ => rfl
theorem codeInvalidData : Statement (.codeInvalidData) := of_word rfl fun _ => rfl
theorem codeOverflow : Statement (.codeOverflow) := of_word rfl fun _ => rfl
theorem codeBusy : Statement (.codeBusy) := of_word rfl fun _ => rfl
theorem statePending : Statement (.statePending) := of_word rfl fun _ => rfl
theorem stateHeaderReceiving : Statement (.stateHeaderReceiving) := of_word rfl fun _ => rfl
theorem stateCompleteReceiving : Statement (.stateCompleteReceiving) := of_word rfl fun _ => rfl

end Sys2Proof.Laws.DecodeEncode
end

