-- ==== Sys2Proof/Tests/Slice0.lean ====
section
/-! SUPPORT. Tests: ill-formed operands refused by `wellFormed`; words written out from spec/30_encoding.md and
spec/opcode_table.json decoded; one step per operation against spec/95_test_vectors.md (V2 to V8); and, for each
obligation with hypotheses, a concrete state and operands that meet them. -/

set_option Elab.async false

namespace Sys2Proof.Tests

open Sys2Proof Sys2Proof.Machine

/-! ### Helpers -/

/-- A context after INIT with `own_address` 1 and `timeout_ms` 100, the registers of a vector of V8 in it. -/
def ctx (state : RxState) (need : BitVec 8) (timer : U32) (held ws : List Byte) : State :=
  { State.reset with
    ownAddress := 1, timeoutMs := 100, state := state, need := need, timerStart := timer,
    intake := .ofBytes held, intakeLen := held.length, work := .ofBytes ws, workLen := ws.length }

/-- The environment of one POLL: the clock's answer, the link's bytes, READ's count, HANDLE's answer. -/
def env (now : U32) (rx : List Byte) (n : Nat) (s : State) : State :=
  { s with nows := [now], rx := rx, counts := [n], replies := [{ data := none, size := 0 }], writtens := [0] }

/-- `Pending` with the registers of reset. -/
def idle : State := ctx .pending 0 0 [] []

/-- Whether an operation answers a next state with a property. -/
def gives (o : Host.Outcome State Fault Refusal) (p : State → Bool) : Bool :=
  match o with
  | .next t => p t
  | .fault _ => false
  | .refused _ => false

/-- Whether an operation is refused by a name. -/
def refuses (o : Host.Outcome State Fault Refusal) (x : Refusal) : Bool :=
  match o with
  | .next _ => false
  | .fault _ => false
  | .refused y => decide (y = x)

/-- The register tuple of V8: `state need timer intake work`. -/
def regs (t : State) (state : RxState) (need : BitVec 8) (timer : U32) (held ws : List Byte) : Bool :=
  decide (t.state = state ∧ t.need = need ∧ t.timerStart = timer ∧ t.intake = .ofBytes held ∧
    t.intakeLen = held.length ∧ t.work = .ofBytes ws ∧ t.workLen = ws.length)

/-- The frame of the source's scenario (V3): address 1, command `0xCF`, payload "test". -/
def scenario : Frame :=
  { address := 0x01, command := 0xCF, size := 0x04, payload := [0x74, 0x65, 0x73, 0x74], crc := 0xE9 }

/-! ### WellFormed: an ill-formed term for each check -/

theorem test_wf_call : wellFormed (.call 1 2 2 [0xAA]) = false ∧ wellFormed (.call 1 2 1 [0xAA, 0xBB]) = true ∧
    wellFormed (.call 1 2 253 []) = false ∧ wellFormed (.call 1 2 253 (List.replicate 253 0)) = true := by decide +kernel
theorem test_wf_crcGen_large : wellFormed (.crcGen 1 2 253 (List.replicate 253 0)) = false := by decide
theorem test_wf_crcGen_length : wellFormed (.crcGen 1 2 2 [0xAA]) = false ∧ wellFormed (.crcGen 1 2 1 [0xAA]) = true := by
  decide
theorem test_wf_reply : wellFormed (.rxReply { data := none, size := 1 }) = false ∧
    wellFormed (.rxReply { data := some [1], size := 0 }) = false ∧
    wellFormed (.rxReply { data := some [1], size := 2 }) = false ∧
    wellFormed (.rxReply { data := some [1], size := 1 }) = true := by decide
theorem test_wf_abort : wellFormed (.rxAbort .none) = false ∧ wellFormed (.rxAbort .busy) = false ∧
    wellFormed (.rxAbort .crc) = true := by decide
theorem test_wf_read : wellFormed (.read 0) = false ∧ wellFormed (.read 254) = false ∧ wellFormed (.read 253) = true := by
  decide
theorem test_wf_write : wellFormed (.write [0x01, 0x01, 0x00, 0xA3, 0x00]) = false ∧
    wellFormed (.write [0xC0, 0x01, 0x00, 0xA3]) = false ∧ wellFormed (.write (0xC0 :: List.replicate 512 0)) = false ∧
    wellFormed (.write [0xC0, 0x01, 0x01, 0x00, 0xA3]) = true := by decide +kernel
theorem test_wf_handle : wellFormed (.handle 1 [0xAA] 2) = false ∧
    wellFormed (.handle 1 (List.replicate 253 0) 253) = false ∧ wellFormed (.handle 1 [0xAA] 1) = true := by
  decide +kernel
theorem test_wf_escIllegal : wellFormed (.escIllegal 0xDC) = false ∧ wellFormed (.escIllegal 0xDD) = false ∧
    wellFormed (.escIllegal 0xC0) = true := by decide
theorem test_wf_literal : wellFormed (.literal 0xC0) = false ∧ wellFormed (.literal 0xDB) = false ∧
    wellFormed (.literal 0xDC) = true := by decide
theorem test_wf_frm_length : wellFormed (.frm { scenario with payload := [0x74] }) = false := by decide +kernel
theorem test_wf_frm_crc : wellFormed (.frm { scenario with crc := 0xE8 }) = false ∧ wellFormed (.frm scenario) = true := by
  decide +kernel
theorem test_wf_frm_size : wellFormed (.frm
    { scenario with size := 253, payload := List.replicate 253 0, crc := gen crcTable31 1 0xCF 253 (List.replicate 253 0) })
    = false := by decide +kernel
theorem test_wf_enc : wellFormed (.enc { scenario with crc := 0xE8 }) = false ∧ wellFormed (.enc scenario) = true := by
  decide +kernel

/-! ### Decoding words written out from the spec -/

/-- R93: `op_sel` `00`, `01`, `10`, and the reserved `11`. -/
theorem test_decode_op : decode (.op 0b00 0 0 0 []) = .ok .init ∧ decode (.op 0b01 0 0 0 []) = .ok .poll ∧
    decode (.op 0b10 0x01 0xCF 2 [0xAA, 0xBB]) = .ok (.call 0x01 0xCF 2 [0xAA, 0xBB]) ∧
    decode (.op 0b11 0 0 0 []) = .error .reservedSelect := by decide
/-- R85: one word of each symbol, and the incomplete escape. -/
theorem test_decode_wire : decode (.wire [0xC0]) = .ok .preamble ∧ decode (.wire [0xDB, 0xDC]) = .ok .escPreamble ∧
    decode (.wire [0xDB, 0xDD]) = .ok .escEsc ∧ decode (.wire [0xDB, 0xC0]) = .ok (.escIllegal 0xC0) ∧
    decode (.wire [0xDC]) = .ok (.literal 0xDC) ∧ decode (.wire [0xDB]) = .error .incompleteEscape ∧
    decode (.wire [0x41, 0x42]) = .error .notOneSymbol ∧ decode (.wire []) = .error .notOneSymbol := by decide
/-- R81 and V3: the scenario's decoded frame; a byte short. -/
theorem test_decode_frm : decode (.frame [0x01, 0xCF, 0x04, 0x74, 0x65, 0x73, 0x74, 0xE9]) = .ok (.frm scenario) ∧
    decode (.frame [0x01, 0xCF, 0x04, 0x74, 0x65, 0x73, 0xE9]) = .error .badFrameLength := by decide
/-- R80 and V3: the frame with escapes in command, payload and none in its checksum. -/
theorem test_decode_enc :
    decode (.encoded [0xC0, 0x02, 0xDB, 0xDC, 0x03, 0xDB, 0xDD, 0xDB, 0xDC, 0x01, 0x22]) =
      .ok (.enc { address := 0x02, command := 0xC0, size := 0x03, payload := [0xDB, 0xC0, 0x01], crc := 0x22 }) := by
  decide +kernel
theorem test_decode_enc_rejects : decode (.encoded [0x01, 0x01, 0x01, 0x00, 0xA3]) = .error .noPreamble ∧
    decode (.encoded []) = .error .noPreamble ∧
    decode (.encoded [0xC0, 0x01, 0xC0, 0x00, 0xA3]) = .error .strayPreamble ∧
    decode (.encoded [0xC0, 0x01, 0xDB, 0x00, 0xA3]) = .error .badStuffing ∧
    decode (.encoded [0xC0, 0x01, 0x01, 0x01, 0xA3]) = .error .badFrameLength := by decide +kernel
/-- R92: the six result bytes, and one that is none of them. -/
theorem test_decode_result : decode (.result 0x00) = .ok .codeNone ∧ decode (.result 0xFF) = .ok .codeTimeout ∧
    decode (.result 0xFE) = .ok .codeCrc ∧ decode (.result 0xFD) = .ok .codeInvalidData ∧
    decode (.result 0xFC) = .ok .codeOverflow ∧ decode (.result 0xFB) = .ok .codeBusy ∧
    decode (.result 0x01) = .error .unknownCode := by decide
/-- R94: the three state codes, and `11`. -/
theorem test_decode_state : decode (.stateCode 0b00) = .ok .statePending ∧
    decode (.stateCode 0b01) = .ok .stateHeaderReceiving ∧ decode (.stateCode 0b10) = .ok .stateCompleteReceiving ∧
    decode (.stateCode 0b11) = .error .reservedState := by decide
/-- The numbering of the opcode table: a frame of 32 bits has its first byte in bits 7..0. -/
theorem test_tableWord : decodeTableWord 32 0xE5000100 =
      some (.frm { address := 0x00, command := 0x01, size := 0x00, payload := [], crc := 0xE5 }) ∧
    decodeTableWord 40 0xE5000100C0 =
      some (.enc { address := 0x00, command := 0x01, size := 0x00, payload := [], crc := 0xE5 }) ∧
    decodeTableWord 8 0xFB = some .codeBusy ∧ decodeTableWord 8 0xDB = none ∧ decodeTableWord 12 0 = none := by
  decide +kernel
theorem test_fetch : gives (step (State.reset.withFetchWord 8 0xFE)) (fun t => decide (t.port = [] ∧ t.trace = [.returned .crc])) = true := by
  decide +kernel

/-! ### Public operations (V6, V8, P6) -/

theorem test_init : gives (exec .init { ctx .completeReceiving 5 10 [] [0x01, 0xCF, 0x04] with txLen := 1, tx := [(0, 7)] })
    (fun t => decide (t = { State.reset with ownAddress := 1, timeoutMs := 100 })) = true := by decide +kernel
theorem test_call : gives (exec (.call 0x01 0xCF 4 [0x74, 0x65, 0x73, 0x74]) (env 0 [] 0 idle)) (fun t =>
    decide (t.tx = .ofBytes [0xC0, 0x01, 0xCF, 0x04, 0x74, 0x65, 0x73, 0x74, 0xE9] ∧ t.txLen = 9 ∧ t.out = .code .none ∧
      t.trace = [.write [0xC0, 0x01, 0xCF, 0x04, 0x74, 0x65, 0x73, 0x74, 0xE9] 0, .returned .none])) = true := by
  decide +kernel
theorem test_call_checksum_escaped : gives (exec (.call 0x01 0x02 1 [0x6B]) (env 0 [] 0 idle)) (fun t =>
    decide (t.tx = .ofBytes [0xC0, 0x01, 0x02, 0x01, 0x6B, 0xDB, 0xDC])) = true := by decide +kernel
theorem test_poll_finishes_header : gives (exec .poll (env 12 [0xDC, 0x11] 1 (ctx .headerReceiving 1 10 [0xDB] [0x01, 0xCF])))
    (fun t => regs t .completeReceiving 193 10 [] [0x01, 0xCF, 0xC0] && decide (t.rx = [0x11] ∧ t.out = .code .none)) = true := by
  decide +kernel
theorem test_poll_replies : gives (exec .poll
      { env 12 [0x74, 0x65, 0x73, 0x74, 0xE9, 0xC0] 5 (ctx .completeReceiving 5 10 [] [0x01, 0xCF, 0x04]) with
        replies := [{ data := some [0x6F, 0x6B], size := 2 }] })
    (fun t => regs t .pending 0 0 [] [0x01, 0xCF, 0x04, 0x74, 0x65, 0x73, 0x74, 0xE9] &&
      decide (t.tx = .ofBytes [0xC0, 0x01, 0xCF, 0x02, 0x6F, 0x6B, 0xC7] ∧ t.rx = [0xC0] ∧ t.out = .code .none)) = true := by
  decide +kernel

/-! ### CRC engine (V2), codec (V4, V5), timer (V7) -/

theorem test_buildTable : gives (exec (.crcBuildTable 0x31) { State.reset with crcTable := Vector.replicate 256 0 })
    (fun t => decide (t.crcTable[0x46] = 0x9B ∧ t.crcTable[0x80] = 0x7A ∧ t.crcTable[0xFF] = 0xAC)) = true := by
  decide +kernel
theorem test_fold : gives (exec (.crcFold [0x01, 0xCF, 0x04] 0x47) idle) (fun t => decide (t.out = .byte 0xA0)) = true := by
  decide +kernel
theorem test_seed : gives (exec .crcSeed idle) (fun t => decide (t.out = .byte 0x47)) = true := by decide +kernel
theorem test_gen : gives (exec (.crcGen 0x01 0xCF 0x04 [0x74, 0x65, 0x73, 0x74]) idle)
    (fun t => decide (t.out = .byte 0xE9)) = true := by decide +kernel
theorem test_gen_short : gives (exec (.crcGen 0x01 0xCF 0x04 [0x74, 0x65, 0x73]) idle)
    (fun t => decide (t.freeCount = idle.freeCount + 1 ∧ t.crcTable = idle.crcTable)) = true := by decide +kernel
theorem test_check : gives (exec (.crcCheck [0x01, 0xCF, 0x04, 0x74, 0x65, 0x73, 0x74, 0xE9]) idle)
      (fun t => decide (t.out = .valid true)) = true ∧
    gives (exec (.crcCheck [0x00, 0x00, 0x00, 0x00]) idle) (fun t => decide (t.out = .valid false)) = true := by
  decide +kernel
theorem test_stuff : gives (exec (.stuff [0xC0, 0xC0, 0xDB, 0xDC, 0xDD, 0x00]) idle)
      (fun t => decide (t.out = .bytes [0xC0, 0xDB, 0xDC, 0xDB, 0xDD, 0xDC, 0xDD, 0x00])) = true ∧
    gives (exec (.stuff [0xDB, 0xDB]) idle) (fun t => decide (t.out = .bytes [0xDB, 0xDB, 0xDD])) = true := by decide +kernel
theorem test_destuff : gives (exec (.destuff [0x01, 0xDB, 0xDC, 0x02, 0xDB, 0xDD, 0x03] 5) idle)
      (fun t => decide (t.out = .destuffed (.ok [0x01, 0xC0, 0x02, 0xDB, 0x03]))) = true ∧
    gives (exec (.destuff [0x01, 0xDB, 0xDC, 0x02, 0xDB, 0xDD, 0x03] 4) idle)
      (fun t => decide (t.out = .destuffed (.fail .capacity))) = true := by decide +kernel
theorem test_destuff_order : destuffBytes [0xDB, 0x00] 0 = .fail .badMarker ∧
    destuffBytes [0x41, 0x42, 0xDB, 0x00] 1 = .fail .capacity ∧ destuffBytes [0x41, 0xDB] 256 = .fail .incomplete := by
  decide
theorem test_tmrArm : gives (exec (.tmrArm 1000) idle) (fun t => decide (t.timerStart = 1000)) = true := by decide +kernel
theorem test_tmrCheck_strict :
    gives (exec (.tmrCheck 1100) (ctx .headerReceiving 3 1000 [] [])) (fun t => decide (t.out = .expired false)) = true ∧
    gives (exec (.tmrCheck 1101) (ctx .headerReceiving 3 1000 [] [])) (fun t => decide (t.out = .expired true)) = true := by
  decide +kernel
theorem test_tmrCheck_wrap :
    gives (exec (.tmrCheck 85) (ctx .headerReceiving 3 0xFFFFFFF0 [] [])) (fun t => decide (t.out = .expired false)) = true ∧
    gives (exec (.tmrCheck 86) (ctx .headerReceiving 3 0xFFFFFFF0 [] [])) (fun t => decide (t.out = .expired true)) = true := by
  decide +kernel
theorem test_tmrDisarm : gives (exec .tmrDisarm (ctx .headerReceiving 3 10 [] [])) (fun t => decide (t.timerStart = 0)) = true := by
  decide +kernel

/-! ### Frame assembler (V8) -/

theorem test_rxPending : gives (exec (.rxPending 10) (env 0 [0xC0, 0x01] 1 (ctx .pending 0 0 [] [0x01, 0xCF])))
    (fun t => regs t .headerReceiving 3 10 [] [] && decide (t.rx = [0x01] ∧ t.out = .code .none)) = true := by decide +kernel
theorem test_readDestuff_holds : gives (exec .rxReadDestuff (env 0 [0x01, 0xCF, 0xDB, 0xDC] 3 (ctx .headerReceiving 3 10 [] [])))
    (fun t => regs t .headerReceiving 3 10 [0xDB] [0x01, 0xCF] && decide (t.rx = [0xDC] ∧ t.out = .progress true)) = true := by
  decide +kernel
theorem test_readDestuff_stray : gives (exec .rxReadDestuff (env 0 [0xDB, 0xC0, 0x04] 3 (ctx .headerReceiving 3 10 [] [])))
    (fun t => regs t .pending 0 0 [] [] && decide (t.rx = [] ∧ t.out = .code .invalidData)) = true := by decide +kernel
theorem test_rxHeader : gives (exec .rxHeader (env 0 [0x01, 0xCF, 0xFC] 3 (ctx .headerReceiving 3 10 [] [])))
      (fun t => regs t .completeReceiving 253 10 [] [0x01, 0xCF, 0xFC]) = true ∧
    gives (exec .rxHeader (env 0 [0x01, 0xCF, 0xFD] 3 (ctx .headerReceiving 3 10 [] [])))
      (fun t => regs t .pending 0 0 [] [] && decide (t.out = .code .invalidData)) = true := by decide +kernel
theorem test_rxComplete : gives (exec .rxComplete (env 0 [0x74, 0x65] 2 (ctx .completeReceiving 5 10 [] [0x01, 0xCF, 0x04])))
    (fun t => regs t .completeReceiving 3 10 [] [0x01, 0xCF, 0x04, 0x74, 0x65]) = true := by decide +kernel
theorem test_rxDispatch : gives (exec .rxDispatch (env 0 [] 0 (ctx .completeReceiving 0 10 [] [0x01, 0xCF, 0x04, 0x74, 0x65, 0x73, 0x74, 0xE9])))
      (fun t => decide (t.trace = [.handle 0xCF [0x74, 0x65, 0x73, 0x74] 4 { data := none, size := 0 }] ∧ t.state = .pending)) = true ∧
    gives (exec .rxDispatch (env 0 [] 0 (ctx .completeReceiving 0 10 [] [0x01, 0xCF, 0x04, 0x74, 0x65, 0x73, 0x74, 0xE8])))
      (fun t => regs t .pending 0 0 [] [] && decide (t.out = .code .crc)) = true := by decide +kernel
theorem test_rxFilter : gives (exec (.rxFilter 2) idle) (fun t => decide (t.out = .accepted false)) = true ∧
    gives (exec (.rxFilter 0) idle) (fun t => decide (t.out = .accepted true)) = true := by decide +kernel
theorem test_rxReply_oversized : gives (exec (.rxReply { data := some (List.replicate 253 0), size := 253 })
      (ctx .pending 0 0 [] [0x01, 0xCF, 0x00]))
    (fun t => decide (t.out = .code .invalidData ∧ t.trace = [])) = true := by decide +kernel
theorem test_rxAbort : gives (exec (.rxAbort .crc) (ctx .completeReceiving 1 10 [0xDB] [0x01, 0x02, 0x01, 0x6B]))
    (fun t => regs t .pending 0 0 [] [] && decide (t.out = .code .crc)) = true := by decide +kernel

/-! ### Callbacks, symbols, frames, codes -/

theorem test_read : gives (exec (.read 3) (env 0 [0x01, 0x41, 0x42] 1 idle))
    (fun t => decide (t.out = .bytes [0x01] ∧ t.rx = [0x41, 0x42])) = true := by decide +kernel
theorem test_write : gives (exec (.write [0xC0, 0x01, 0x01, 0x00, 0xA3]) (env 0 [] 0 idle))
    (fun t => decide (t.trace = [.write [0xC0, 0x01, 0x01, 0x00, 0xA3] 0] ∧ t.txLen = 0)) = true := by decide +kernel
theorem test_now : gives (exec .now (env 7 [] 0 idle)) (fun t => decide (t.out = .sample 7 ∧ t.nows = [])) = true := by
  decide +kernel
theorem test_handle : gives (exec (.handle 0xCF [0x74] 1) (env 0 [] 0 idle))
    (fun t => decide (t.trace = [.handle 0xCF [0x74] 1 { data := none, size := 0 }])) = true := by decide +kernel
theorem test_preamble : gives (exec .preamble (env 10 [0x55] 1 idle))
      (fun t => regs t .headerReceiving 3 10 [] [] && decide (t.rx = [0x55])) = true ∧
    gives (exec .preamble (env 10 [] 0 (ctx .headerReceiving 3 10 [] [])))
      (fun t => regs t .pending 0 0 [] [] && decide (t.out = .code .invalidData)) = true := by decide +kernel
theorem test_escPreamble : gives (exec .escPreamble { ctx .headerReceiving 1 10 [] [0x01, 0xCF] with nows := [11, 12] })
    (fun t => regs t .completeReceiving 193 10 [] [0x01, 0xCF, 0xC0]) = true := by decide +kernel
theorem test_escEsc : gives (exec .escEsc { ctx .headerReceiving 1 10 [] [0x01, 0xCF] with nows := [11, 12] })
    (fun t => regs t .completeReceiving 220 10 [] [0x01, 0xCF, 0xDB]) = true := by decide +kernel
theorem test_escIllegal : gives (exec (.escIllegal 0x04) { ctx .headerReceiving 1 10 [] [0x01, 0xCF] with nows := [11, 12] })
    (fun t => regs t .pending 0 0 [] [] && decide (t.out = .code .invalidData)) = true := by decide +kernel
/-- An escape byte in `Pending` gets no special treatment (R154): two bytes, two `INVALID_DATA`. -/
theorem test_escIllegal_pending : gives (exec (.escIllegal 0x04) { idle with nows := [11, 12] })
    (fun t => regs t .pending 0 0 [] [] && decide (t.trace.length = 6 ∧ t.out = .code .invalidData)) = true := by decide +kernel
theorem test_literal : gives (exec (.literal 0x01) (env 11 [] 0 (ctx .headerReceiving 3 10 [] [])))
      (fun t => regs t .headerReceiving 2 10 [] [0x01]) = true ∧
    gives (exec (.literal 0xDC) (env 11 [] 0 idle)) (fun t => decide (t.out = .code .invalidData)) = true := by decide +kernel
/-- A deadline that passes as the byte comes: `TIMEOUT`, and the byte is then discarded in `Pending` (R267). -/
theorem test_literal_timeout : gives (exec (.literal 0x01) { ctx .headerReceiving 3 10 [] [] with nows := [200, 201] })
    (fun t => decide (t.rx = [] ∧ t.trace =
      [.now 200, .returned .timeout, .now 201, .read 1 [0x01], .returned .invalidData])) = true := by decide +kernel
theorem test_frm : gives (exec (.frm scenario) (env 0 [] 0 idle))
    (fun t => decide (t.trace = [.handle 0xCF [0x74, 0x65, 0x73, 0x74] 4 { data := none, size := 0 }])) = true := by
  decide +kernel
theorem test_enc : gives (exec (.enc { address := 0x01, command := 0x02, size := 0x01, payload := [0x6B], crc := 0xC0 })
      { env 0 [] 0 idle with nows := [10, 11, 12, 13, 14, 15, 16], counts := [] })
    (fun t => decide (t.state = .pending ∧ t.out = .code .none ∧ t.trace.drop 20 =
      [.handle 0x02 [0x6B] 1 { data := none, size := 0 }, .returned .none])) = true := by decide +kernel
theorem test_codes : gives (exec .codeNone idle) (fun t => decide (t.trace = [.returned .none])) = true ∧
    gives (exec .codeTimeout idle) (fun t => decide (t.trace = [.returned .timeout])) = true ∧
    gives (exec .codeCrc idle) (fun t => decide (t.trace = [.returned .crc])) = true ∧
    gives (exec .codeInvalidData idle) (fun t => decide (t.trace = [.returned .invalidData])) = true ∧
    gives (exec .codeOverflow idle) (fun t => decide (t.trace = [.returned .overflow])) = true ∧
    gives (exec .codeBusy idle) (fun t => decide (t.trace = [.returned .busy])) = true := by decide +kernel
theorem test_codeBytes : codeByte .none = 0x00 ∧ codeByte .timeout = 0xFF ∧ codeByte .crc = 0xFE ∧
    codeByte .invalidData = 0xFD ∧ codeByte .overflow = 0xFC ∧ codeByte .busy = 0xFB := by decide
theorem test_states : gives (exec .statePending (ctx .headerReceiving 3 10 [] [])) (fun t => regs t .pending 0 10 [] []) = true ∧
    gives (exec .stateHeaderReceiving idle) (fun t => decide (t.state = .headerReceiving)) = true ∧
    gives (exec .stateCompleteReceiving idle) (fun t => decide (t.state = .completeReceiving)) = true := by decide +kernel

/-! ### Witnesses: states and operands that meet the hypotheses of the obligations -/

/-- The items of R35 for a concrete context: the two that speak of a state by cases are given as facts. -/
theorem invariants_of (s : State)
    (h : s.initialised = true ∧ s.intake.dense s.intakeLen = true ∧ s.work.dense s.workLen = true ∧
      s.tx.dense s.txLen = true ∧ s.intakeLen ≤ 1 ∧ (s.intakeLen = 1 → s.intake.read 0 = some Config.esc) ∧
      s.workLen ≤ 256 ∧ s.intakeLen ≤ s.intakeCapacity ∧ s.txLen ≤ s.txCapacity ∧ s.crcTable = buildTable Config.poly)
    (hs : (s.state = .pending ∧ s.timerStart = 0 ∧ s.intakeLen = 0 ∧ s.need = 0) ∨
      (s.state = .headerReceiving ∧ s.workLen ≤ 2 ∧ s.need.toNat = 3 - s.workLen) ∨
      (s.state = .completeReceiving ∧ ∃ size : Byte, workByte s 2 = some size ∧ size.toNat ≤ 252 ∧ 3 ≤ s.workLen ∧
        s.workLen ≤ 3 + size.toNat ∧ s.need.toNat = 3 + size.toNat + 1 - s.workLen))
    (hp : ∀ w ∈ s.port, lawfulWord w = true) : Invariants s := by
  obtain ⟨h1, h2, h3, h4, h5, h6, h7, h8, h9, h10⟩ := h
  refine ⟨h1, h2, h3, h4, ?_, ?_, ?_, ⟨h5, h6⟩, h7, h8, h9, h10, hp⟩ <;> intro he <;>
    rcases hs with ⟨hs, h⟩ | ⟨hs, h⟩ | ⟨hs, h⟩ <;> rw [hs] at he <;> first | exact h | cases he

/-- `Pending`, with a POLL and a CALL on the port. -/
def idleContext : State :=
  { env 10 [0xC0] 1 idle with port := [.op 1 0 0 0 [], .op 2 1 2 0 [], .wire [0x41], .encoded [0xC0], .result 0] }

/-- One header byte decoded, the timer inactive (R146). -/
def headerContext : State := env 11 [0xDB] 1 (ctx .headerReceiving 2 0 [] [0x01])

/-- The header of the scenario decoded, an escape byte withheld. -/
def payloadContext : State := env 12 [0xDC, 0x65] 2 (ctx .completeReceiving 5 10 [0xDB] [0x01, 0xCF, 0x04])

theorem witness_invariants_idle : Invariants idleContext :=
  invariants_of _ (by decide +kernel) (.inl (by decide)) (by decide)
theorem witness_invariants_header : Invariants headerContext :=
  invariants_of _ (by decide +kernel) (.inr (.inl (by decide))) (by decide)
theorem witness_invariants_payload : Invariants payloadContext :=
  invariants_of _ (by decide +kernel) (.inr (.inr ⟨by decide, 0x04, by decide⟩)) (by decide)

/-- StepKeepsTheInvariant, StepReadsNoUnspecifiedByte: a lawful context whose next step answers. -/
theorem witness_step : Invariants idleContext ∧ gives (step idleContext) (fun t => decide (t.state = .headerReceiving)) = true :=
  ⟨witness_invariants_idle, by decide +kernel⟩
theorem witness_InitEstablishesTheInvariant :
    (∀ w ∈ idleContext.port, lawfulWord w = true) ∧ gives (exec .init idleContext) (fun _ => true) = true := by
  decide +kernel
theorem witness_IntakeNeverOverflows : Invariants payloadContext ∧ 254 ≤ payloadContext.intakeCapacity ∧
    gives (exec .rxReadDestuff payloadContext) (fun _ => true) = true :=
  ⟨witness_invariants_payload, by decide, by decide +kernel⟩
theorem witness_PollCompletesUnderTheContract : Invariants payloadContext ∧ platformKept payloadContext :=
  ⟨witness_invariants_payload, by unfold platformKept replyKept; decide +kernel⟩

/-- StepRunsTheDecodedOperation: a word that decodes, an empty port, and words of each kind that decode to nothing. -/
theorem witness_StepRunsTheDecodedOperation :
    (idleContext.port = .op 1 0 0 0 [] :: idleContext.port.tail ∧ decode (.op 1 0 0 0 []) = .ok .poll) ∧
    idle.port = [] ∧
    (decode (.op 3 0 0 0 []) = .error .reservedSelect ∧ decode (.result 1) = .error .unknownCode ∧
      decode (.stateCode 3) = .error .reservedState) ∧
    (decode (.wire [0xDB]) = .error .incompleteEscape ∧ decode (.encoded [0x41]) = .error .noPreamble) ∧
    (decode (.frame [0x01, 0xCF]) = .error .badFrameLength ∧ decode (.frame [0x01, 0xCF, 0xFD]) = .error .badFrameLength ∧
      decode (.frame [0x01, 0xCF, 0x01, 0x00]) = .error .badFrameLength ∧
      decode (.frame (frameBytes scenario ++ [0])) = .error .badFrameLength) := by decide +kernel
/-- R85, R158: an escape byte alone is withheld; R90: a byte between frames is discarded; R161: bytes missing. -/
theorem test_undecoded :
    gives (step { ctx .headerReceiving 3 10 [] [] with port := [.wire [0xDB]], nows := [11] })
      (fun t => regs t .headerReceiving 3 10 [0xDB] [] && decide (t.out = .code .none)) = true ∧
    gives (step { idle with port := [.encoded [0x41]], nows := [11] }) (fun t => decide (t.out = .code .invalidData)) = true ∧
    gives (step { idle with port := [.frame [0x01, 0xCF, 0x04, 0x74]] })
      (fun t => regs t .completeReceiving 4 0 [] [0x01, 0xCF, 0x04, 0x74]) = true ∧
    refuses (step { idle with port := [.op 3 0 0 0 []] }) (.undecodable .reservedSelect) = true := by decide +kernel
theorem witness_DecodeUndoesEncode : wellFormed (.enc scenario) = true ∧ (encode (.enc scenario)).isSome = true := by
  decide +kernel

/-- RefusedInvocations: short data by one byte at 252, at 253, and while a frame is mid-receive. -/
theorem witness_RefusedInvocations :
    { idle with initialised := false }.initialised = false ∧
    (idle.initialised = true ∧ (List.replicate 251 (0 : Byte)).length < 252 ∧
      refuses (exec (.call 1 2 253 (List.replicate 252 0)) idle) .shortData = true ∧
      refuses (exec (.call 1 2 1 []) headerContext) .shortData = true) := by decide +kernel
/-- CallTransmitsTheStuffedFrame, CallLeavesTheReceiveSession: V6 at the boundary of `TX_CAPACITY`, 8 bytes into 8. -/
theorem witness_CallTransmitsTheStuffedFrame :
    idle.initialised = true ∧ idle.state = .pending ∧ 3 ≤ [0x74, 0x65, (0x73 : Byte)].length ∧
    (encodedBytes (buildFrame crcTable31 0x01 0xCF [0x74, 0x65, 0x73])).length = 8 ∧
    gives (exec (.call 0x01 0xCF 3 [0x74, 0x65, 0x73]) { idle with txCapacity := 8, writtens := [8] })
      (fun t => decide (t.txLen = 8)) = true := by decide +kernel
/-- CallRejectsOversizedPayload and CallReturnsBusyWhileReceiving: V6 on both sides of 252, in both kinds of state. -/
theorem witness_CallRejects_CallReturnsBusy :
    gives (exec (.call 1 0x10 253 (List.replicate 253 0)) headerContext)
      (fun t => decide (t.out = .code .invalidData)) = true ∧
    gives (exec (.call 1 0x10 252 (List.replicate 252 0)) headerContext) (fun t => decide (t.out = .code .busy)) = true ∧
    gives (exec (.call 1 0x10 0 []) idleContext) (fun t => decide (t.out = .code .none)) = true := by decide +kernel
/-- CallOverflowSendsNothing: V6, 9 bytes into 8. -/
theorem witness_CallOverflowSendsNothing :
    { idle with txCapacity := 8 }.initialised = true ∧ { idle with txCapacity := 8 }.state = .pending ∧ 4 ≤ 252 ∧
    4 ≤ scenario.payload.length ∧ { idle with txCapacity := 8 }.txCapacity < (encodedBytes (buildFrame idle.crcTable 0x01 0xCF (scenario.payload.take 4))).length := by decide +kernel
/-- StuffedFrameLengthBounds: both ends of the payload's length; the second is V3's frame of 512 bytes. -/
theorem witness_StuffedFrameLengthBounds :
    (encodedBytes (buildFrame crcTable31 0x00 0x01 [])).length = 5 ∧
    (encodedBytes (buildFrame crcTable31 0xDB 0xC0 (0xC0 :: 0xC0 :: List.replicate 250 0xDB))).length = 512 := by
  decide +kernel

/-- PollInPending, RxPendingClassifiesOneByte: nothing, the preamble, another byte. -/
theorem witness_PollInPending :
    (idle.initialised = true ∧ idle.state = .pending ∧ idle.timerStart = 0 ∧ readAnswer 1 (afterNow (env 10 [0xC0] 0 idle)) = []) ∧
    readAnswer 1 (afterNow (env 10 [0xC0, 0x01] 1 idle)) = [0xC0] ∧
    readAnswer 1 (afterNow (env 10 [0xDB] 1 idle)) = [0xDB] ∧
    readAnswer 1 (env 10 [0xC0] 0 idle) = [] ∧ readAnswer 1 (env 10 [0xC0, 0x01] 1 idle) = [0xC0] ∧
    readAnswer 1 (env 10 [0xDB] 1 idle) = [0xDB] := by decide +kernel
/-- PollTimesOutBeforeReading: V8's elapsed 101, and a wrap; 100 is not a timeout. -/
theorem witness_PollTimesOutBeforeReading :
    gives (exec .poll (env 111 [0x74] 1 (ctx .completeReceiving 5 10 [] [0x01, 0xCF, 0x04])))
      (fun t => decide (t.out = .code .timeout ∧ t.rx = [0x74])) = true ∧
    gives (exec .poll (env 86 [] 0 (ctx .headerReceiving 3 0xFFFFFFF0 [] []))) (fun t => decide (t.out = .code .timeout)) = true ∧
    gives (exec .poll (env 110 [] 0 (ctx .headerReceiving 3 10 [] []))) (fun t => decide (t.out = .code .none)) = true := by
  decide +kernel

/-- One byte of a header arrives, none withheld. -/
theorem witness_decodes_header :
    Decodes (env 11 [0x01] 1 (ctx .headerReceiving 3 10 [] [])) [] [] [0x01] [0x01] [0x01] false := by
  constructor <;> decide +kernel
/-- A marker arrives for a withheld escape byte, and the next escape byte is withheld. -/
theorem witness_decodes_payload :
    Decodes (env 11 [0xDC, 0xDB] 2 (ctx .completeReceiving 5 10 [0xDB] [0x01, 0xCF, 0x04])) [0xDB] [0x01, 0xCF, 0x04]
      [0xDC, 0xDB] [0xDB, 0xDC] [0xC0] true := by
  constructor <;> decide +kernel
/-- The header's last byte arrives: size 252, size 253. -/
theorem witness_decodes_sizes :
    Decodes (env 11 [0xFC] 1 (ctx .headerReceiving 1 10 [] [0x01, 0xCF])) [] [0x01, 0xCF] [0xFC] [0xFC] [0xFC] false ∧
    Decodes (env 11 [0xFD] 1 (ctx .headerReceiving 1 10 [] [0x01, 0xCF])) [] [0x01, 0xCF] [0xFD] [0xFD] [0xFD] false := by
  refine ⟨?_, ?_⟩ <;> constructor <;> decide +kernel
/-- The frame's last byte arrives. -/
theorem witness_decodes_last :
    Decodes (env 11 [0x11, 0xC0] 1 (ctx .completeReceiving 1 10 [] [0x00, 0x00, 0x00])) [] [0x00, 0x00, 0x00] [0x11]
      [0x11] [0x11] false := by
  constructor <;> decide +kernel
/-- PollInTheReceivingStates: its other hypotheses at the first two of these contexts, after the clock sample; nothing
read; an abort; an answer of READ beyond its bound. -/
theorem witness_PollInTheReceivingStates :
    (Decodes (afterNow (env 110 [0x01] 1 (ctx .headerReceiving 3 10 [] []))) [] [] [0x01] [0x01] [0x01] false ∧
      expired 110 (env 110 [0x01] 1 (ctx .headerReceiving 3 10 [] [])) = false) ∧
    (Decodes (afterNow (env 110 [0x74] 1 (ctx .completeReceiving 5 10 [] [0x01, 0xCF, 0x04]))) [] [0x01, 0xCF, 0x04]
        [0x74] [0x74] [0x74] false ∧
      expired 110 (env 110 [0x74] 1 (ctx .completeReceiving 5 10 [] [0x01, 0xCF, 0x04])) = false ∧
      [0x01, 0xCF, 0x04, (0x74 : Byte)][2]? = some 0x04) ∧
    readAnswer 3 (afterNow (env 110 [0x01] 0 (ctx .headerReceiving 3 10 [] []))) = [] ∧
    gives (exec .rxReadDestuff (afterNow (env 110 [0xC0] 1 (ctx .headerReceiving 3 10 [] []))))
      (fun t => decide (t.out = .code .invalidData)) = true ∧
    refuses (exec .rxReadDestuff (afterNow (env 110 [1, 2, 3, 4] 4 (ctx .headerReceiving 3 10 [] [])))) .readOverrun = true := by
  refine ⟨⟨?_, by decide⟩, ⟨?_, by decide, by decide⟩, by decide, by decide +kernel, by decide +kernel⟩ <;>
    constructor <;> decide +kernel
/-- PollFinishesHeaderOrFrame: the last byte of a header of size 252 and of size 253, and of a frame that the filter
accepts, discards, and whose checksum is bad. -/
theorem witness_PollFinishesHeaderOrFrame :
    Decodes (afterNow (env 11 [0xFC] 1 (ctx .headerReceiving 1 10 [] [0x01, 0xCF]))) [] [0x01, 0xCF] [0xFC] [0xFC] [0xFC] false ∧
    Decodes (afterNow (env 11 [0xFD] 1 (ctx .headerReceiving 1 10 [] [0x01, 0xCF]))) [] [0x01, 0xCF] [0xFD] [0xFD] [0xFD] false ∧
    (let s := env 12 [0xE9] 1 (ctx .completeReceiving 1 10 [] [0x01, 0xCF, 0x04, 0x74, 0x65, 0x73, 0x74])
     Decodes (afterNow s) [] [0x01, 0xCF, 0x04, 0x74, 0x65, 0x73, 0x74] [0xE9] [0xE9] [0xE9] false ∧
      expired (nowAnswer s) s = false ∧ [0x01, 0xCF, 0x04, 0x74, 0x65, 0x73, 0x74] ++ [0xE9] = frameBytes scenario ∧
      fold s.crcTable (frameBytes scenario) (fold s.crcTable [0xC0] 0) = 0 ∧ scenario.address = s.ownAddress ∧
      { s with ownAddress := 2 }.ownAddress ≠ 0 ∧ scenario.address ≠ 0 ∧
      scenario.address ≠ { s with ownAddress := 2 }.ownAddress) ∧
    Decodes (afterNow (env 12 [0xE8] 1 (ctx .completeReceiving 1 10 [] [0x01, 0xCF, 0x04, 0x74, 0x65, 0x73, 0x74]))) []
      [0x01, 0xCF, 0x04, 0x74, 0x65, 0x73, 0x74] [0xE8] [0xE8] [0xE8] false := by
  refine ⟨?_, ?_, ⟨?_, by decide +kernel⟩, ?_⟩ <;> constructor <;> decide +kernel
/-- The same four POLLs, and one whose handler replies, answer. -/
theorem test_poll_finishes :
    gives (exec .poll (env 11 [0xFD] 1 (ctx .headerReceiving 1 10 [] [0x01, 0xCF])))
      (fun t => regs t .pending 0 0 [] [] && decide (t.out = .code .invalidData)) = true ∧
    gives (exec .poll (env 12 [0xE8] 1 (ctx .completeReceiving 1 10 [] [0x01, 0xCF, 0x04, 0x74, 0x65, 0x73, 0x74])))
      (fun t => regs t .pending 0 0 [] [] && decide (t.out = .code .crc)) = true := by decide +kernel
/-- ReadDestuffDecodesNothing: nothing read; no room by one; a stray preamble; a bad marker after a withheld byte. -/
theorem witness_ReadDestuffDecodesNothing :
    (payloadContext.intakeLen + payloadContext.need.toNat ≤ payloadContext.intakeCapacity ∧
      readAnswer 5 { payloadContext with counts := [0] } = []) ∧
    { payloadContext with intakeCapacity := 5 }.intakeCapacity < payloadContext.intakeLen + payloadContext.need.toNat ∧
    (0xC0 ∈ readAnswer 5 { payloadContext with rx := [0x74, 0xC0] } ∧
      (readAnswer 5 { payloadContext with rx := [0x74, 0xC0] }).length ≤ 5) ∧
    (let u := { payloadContext with rx := [0x00, 0xDB] };
      u.intake = .ofBytes [0xDB] ∧ u.intakeLen = 1 ∧ u.intakeLen + u.need.toNat ≤ u.intakeCapacity ∧
      (readAnswer u.need.toNat u).length ≤ u.need.toNat ∧ readAnswer u.need.toNat u ≠ [] ∧ 0xC0 ∉ readAnswer u.need.toNat u ∧
      [0xDB] ++ readAnswer u.need.toNat u = [0xDB, 0x00] ++ [0xDB] ∧
      destuffBytes [0xDB, 0x00] (256 - u.workLen) = .fail .badMarker) := by decide +kernel

/-- RxDispatchByChecksumAndFilter: a good frame accepted, without and with a reply; the same for another node; a bad
checksum. -/
theorem witness_RxDispatchByChecksumAndFilter :
    let u := env 0 [] 0 (ctx .completeReceiving 0 10 [] (frameBytes scenario))
    let bad := { scenario with crc := 0xE8 }
    let v := env 0 [] 0 (ctx .completeReceiving 0 10 [] (frameBytes bad))
    (u.work = .ofBytes (frameBytes scenario) ∧ u.workLen = scenario.size.toNat + 4 ∧
      scenario.payload.length = scenario.size.toNat ∧
      fold u.crcTable (frameBytes scenario) (fold u.crcTable [0xC0] 0) = 0) ∧
    (scenario.address = u.ownAddress ∧ (handleAnswer u).data = none) ∧
    ((handleAnswer { u with replies := [{ data := some [0x6F], size := 1 }] }).data ≠ none ∧
      0 < (handleAnswer { u with replies := [{ data := some [0x6F], size := 1 }] }).size) ∧
    ({ u with ownAddress := 2 }.ownAddress ≠ 0 ∧ scenario.address ≠ 0 ∧
      scenario.address ≠ { u with ownAddress := 2 }.ownAddress) ∧
    (v.work = .ofBytes (frameBytes bad) ∧ v.workLen = bad.size.toNat + 4 ∧ bad.payload.length = bad.size.toNat ∧
      fold v.crcTable (frameBytes bad) (fold v.crcTable [0xC0] 0) ≠ 0) := by decide +kernel
/-- RxReplyRunsTheNestedCall: V8's reply `6F 6B`, with room for exactly its 7 bytes and for one less; 252 and 253 bytes;
a receiving state; a reply one byte short, and one without data. -/
theorem witness_RxReplyRunsTheNestedCall :
    let u := { env 0 [] 0 (ctx .pending 0 0 [] (frameBytes scenario)) with txCapacity := 7 }
    (u.state = .pending ∧ u.replyHeader = .echo ∧ u.work = .ofBytes (0x01 :: 0xCF :: (frameBytes scenario).drop 2) ∧
      u.workLen = ((frameBytes scenario).drop 2).length + 2 ∧ 2 ≤ [0x6F, (0x6B : Byte)].length ∧
      (encodedBytes (buildFrame u.crcTable 0x01 0xCF ([0x6F, 0x6B].take 2))).length = u.txCapacity) ∧
    { u with txCapacity := 6 }.txCapacity <
      (encodedBytes (buildFrame u.crcTable 0x01 0xCF ([0x6F, 0x6B].take 2))).length ∧
    gives (exec (.rxReply { data := some (List.replicate 253 0), size := 253 }) u)
      (fun t => decide (t.out = .code .invalidData)) = true ∧
    gives (exec (.rxReply { data := some (List.replicate 252 0), size := 252 }) { u with state := .completeReceiving })
      (fun t => decide (t.out = .code .busy)) = true ∧
    refuses (exec (.rxReply { data := some [0x6F], size := 2 }) u) .shortData = true ∧
    refuses (exec (.rxReply { data := none, size := 253 }) u) .shortData = true := by decide +kernel
/-- AssemblerStopsByName: an answer of two bytes to READ(1), of six to READ(5); two bytes in `work`, and one; a frame of
size 4 with one byte missing. -/
theorem witness_AssemblerStopsByName :
    1 < (readAnswer 1 (env 0 [0xC0, 0x01] 2 idle)).length ∧
    (payloadContext.intakeLen + payloadContext.need.toNat ≤ payloadContext.intakeCapacity ∧
      5 < (readAnswer 5 { payloadContext with rx := List.replicate 6 0, counts := [6] }).length) ∧
    (ctx .pending 0 0 [] [0x01, 0xCF]).workLen ≤ 2 ∧ (ctx .pending 0 0 [] [0x01]).workLen ≤ 1 ∧
    (let s := ctx .completeReceiving 1 10 [] [0x01, 0xCF, 0x04, 0x74, 0x65, 0x73, 0x74]
     workByte s 2 = some 0x04 ∧ s.workLen < (0x04 : Byte).toNat + 4) := by decide +kernel

/-- PollCallbackOrder, PollLeavesTableAndConfiguration and the other statements about a POLL's next state: a POLL that
makes all four callbacks; one that returns `CRC`; one that returns `OVERFLOW` from a reply. -/
theorem witness_Poll_next :
    gives (exec .poll { env 12 [0x11] 1 (ctx .completeReceiving 1 10 [] [0x00, 0x00, 0x00]) with
        replies := [{ data := some [0x41], size := 1 }] }) (fun t => decide (t.trace.length = 5)) = true ∧
    gives (exec .poll (env 12 [0x00] 1 (ctx .completeReceiving 1 10 [] [0x00, 0x00, 0x00])))
      (fun t => decide (t.out = .code .crc ∧ t.workLen = 0)) = true ∧
    gives (exec .poll { env 12 [0x11] 1 (ctx .completeReceiving 1 10 [] [0x00, 0x00, 0x00]) with
        replies := [{ data := some [0x41], size := 1 }], txCapacity := 5 })
      (fun t => decide (t.out = .code .overflow ∧ t.workLen = 4)) = true := by decide +kernel

/-- TimerOperations, ElapsedTimeAcrossTheWrap: `now` at `timer_start`, and one below it. -/
theorem witness_TimerCheck : (1 : U32) ≠ 0 ∧ (1 : U32).toNat ≤ (1 : U32).toNat ∧ (0 : U32).toNat < (1 : U32).toNat ∧
    elapsed 1 1 = 0 ∧ elapsed 1 0 = 0xFFFFFFFE ∧ { idle with timeoutMs := 0xFFFFFFFF }.timeoutMs = 0xFFFFFFFF := by decide +kernel
theorem witness_CrcOperationsFoldTheTable : (2 : Byte).toNat ≤ [0xAA, (0xBB : Byte)].length ∧
    [(0xAA : Byte)].length < (2 : Byte).toNat ∧
    State.reset.crcTable = buildTable 0x31 := by decide +kernel
theorem witness_OneByteChangeIsDetected : (0x74 : Byte) ≠ 0x75 := by decide
theorem witness_StuffedTail : (stuffBytes [0xC0, 0xDB])[1]? = some 0xDB ∧ (stuffBytes [0xC0, 0xDB])[2]? = some 0xDD := by
  decide
theorem witness_DestuffReadsSymbols : (0x00 : Byte) ≠ 0xDC ∧ (0x00 : Byte) ≠ 0xDD ∧ (0xDC : Byte) ≠ 0xDB := by decide
theorem witness_WholeRoundTripDomain : [0xDB, (0xDD : Byte)].length ≤ 2 ∧ destuffBytes (stuffBytes [0xDB, 0xDD]) 2 ≠ .ok [0xDB, 0xDD] ∧
    destuffBytes (stuffBytes [0xC0, 0xDB]) 2 = .ok [0xC0, 0xDB] := by decide
theorem witness_DestuffInPieces : destuffBytes [0x41, 0xDB, 0xDC] 3 = .ok [0x41, 0xC0] ∧
    destuffBytes [0x41, 0xDB, 0xDC, 0xDB, 0xDD] 3 = .ok [0x41, 0xC0, 0xDB] := by decide
/-- ReadConsumesTheOldestBytes: an answer of `max` bytes, one of `max` + 1, and none listed. -/
theorem witness_ReadConsumesTheOldestBytes :
    (([0x01, 0x02, (0x03 : Byte)].take 2).length ≤ 2 ∧ 2 < ([0x01, 0x02, (0x03 : Byte)].take 3).length) ∧
    (env 0 [0x01, 0x02, 0x03] 2 idle).counts = [2] ∧ idle.counts = [] := by decide +kernel
theorem witness_CallbacksLeaveTheRegisters : (env 7 [] 0 idle).nows = [7] ∧ idle.nows = [] ∧
    (env 7 [] 0 idle).replies = [{ data := none, size := 0 }] ∧ idle.replies = [] := by decide +kernel

/-- A supervised header with two bytes to come: the clock answers the last moment of its deadline, then the first past
it. -/
def timedContext : State := { ctx .headerReceiving 2 10 [] [0x01] with nows := [11, 110, 111], counts := [0] }
/-- R56, R159: 257 decoded bytes are a capacity violation, 256 are not. -/
theorem test_undecoded_capacity :
    gives (step { idle with port := [.frame ([0x00, 0x00, 0x00, 0x11] ++ List.replicate 253 0)] })
      (fun t => regs t .pending 0 0 [] [] && decide (t.out = .code .invalidData)) = true ∧
    gives (step { env 0 [] 0 idle with port := [.frame ([0x00, 0x00, 0x00, 0x11] ++ List.replicate 252 0)] })
      (fun t => decide (t.workLen ≤ 256)) = true := by decide +kernel
/-- BuffersStayInRange: a full `work`, and a step on a word of FRM. -/
theorem witness_BuffersStayInRange :
    let s := { env 0 [] 0 (ctx .pending 0 0 [] (List.replicate 256 0)) with port := [.frame (frameBytes scenario)] }
    BuffersInRange s ∧ gives (step s) (fun _ => true) = true :=
  ⟨by constructor <;> decide +kernel, by decide +kernel⟩
/-- SymbolsMetInPending, SymbolsDecodeIntoWork, IllegalSymbolsAbort: `Pending`; a supervised header, for one byte and for
two; its third answer would expire. -/
theorem witness_symbols :
    (idle.initialised = true ∧ idle.state = .pending ∧ idle.timerStart = 0) ∧
    (Invariants timedContext ∧ timedContext.state ≠ .pending ∧ timedContext.intakeLen = 0 ∧
      timedContext.need.toNat = 2 ∧ timedContext.need.toNat + 1 ≤ timedContext.intakeCapacity ∧
      deadlineKept 1 timedContext.timerStart timedContext ∧ deadlineKept 2 timedContext.timerStart timedContext ∧
      timedContext.work = .ofBytes [0x01]) ∧ expired (clockAnswer timedContext 2) timedContext = true :=
  ⟨by decide, ⟨invariants_of _ (by decide +kernel) (.inr (.inl (by decide))) (by decide), by decide, by decide, by decide,
    by decide, by unfold deadlineKept; decide, by unfold deadlineKept; decide, by decide⟩, by decide⟩
/-- DecodedFrameIsDispatched, EncodedFrameIsDelivered: a supervised receiver, its last byte in the last moment. -/
theorem witness_frames :
    let s := { env 0 [] 0 idle with nows := [10, 20, 30, 40, 50, 60, 70, 80, 110] }
    Invariants s ∧ s.state = .pending ∧ scenario.wellFormed = true ∧ s.crcTable = buildTable 0x31 ∧
      254 ≤ s.intakeCapacity ∧ (encodedBytes scenario).length = 9 ∧ deadlineKept 9 (nowAnswer s) s ∧
      accepts s.ownAddress scenario.address = true ∧ s.replies = [{ data := none, size := 0 }] ∧
      nonEmptyReply (handleAnswer s) = false ∧
      gives (exec (.enc scenario) s) (fun t => decide (t.out = .code .none ∧ t.workLen = 8)) = true :=
  ⟨invariants_of _ (by decide +kernel) (.inl (by decide)) (by decide), by decide, by decide +kernel, by decide +kernel,
    by decide, by decide +kernel, by unfold deadlineKept; decide, by decide, by decide, by decide, by decide +kernel⟩
/-- DecodedFrameIsDispatched: the sizes at its boundary, a payload one byte short, and one that `work` does not hold. -/
theorem witness_frame_sizes : 252 < { scenario with payload := List.replicate 253 0 }.payload.length ∧
    { scenario with size := 252 }.size.toNat ≤ 252 ∧ 252 < { scenario with size := 253 }.size.toNat ∧
    scenario.size.toNat ≤ scenario.payload.length ∧ { scenario with size := 5 }.payload.length < (5 : Byte).toNat := by
  decide +kernel
/-- CallLoopbackIsDelivered: one context sends, another, supervised, receives; the empty payload (the largest stands in
witness_StuffedFrameLengthBounds). -/
theorem witness_CallLoopbackIsDelivered :
    let s := { env 0 [] 0 idle with nows := [10, 20, 30, 40, 110] }
    Invariants s ∧ s.state = .pending ∧ 0 ≤ ([] : List Byte).length ∧ 512 ≤ s.txCapacity ∧ 254 ≤ s.intakeCapacity ∧
      deadlineKept (encodedBytes (buildFrame s.crcTable 1 0xCF (([] : List Byte).take 0))).length (nowAnswer s) s ∧
      accepts s.ownAddress 1 = true ∧ s.replies = [{ data := none, size := 0 }] :=
  ⟨invariants_of _ (by decide +kernel) (.inl (by decide)) (by decide), by decide, by decide, by decide, by decide,
    by unfold deadlineKept; decide +kernel, by decide, by decide⟩
theorem witness_ErrorCodes : (Instr.codeBusy, ErrorCode.busy, (0xFB : Byte)) ∈ [(Instr.codeBusy, ErrorCode.busy, (0xFB : Byte))] := by
  decide

end Sys2Proof.Tests
end

section
/-! Proofs about STUFF (spec/41_stuffing.md R126): its tail is the bytewise image of R84, one byte longer for every reserved
byte. -/

namespace Sys2Proof.Machine

/-- R126: STUFF changes nothing but the output port. -/
theorem exec_stuff (plaintext : List Byte) (s : State) :
    exec (.stuff plaintext) s = .next { s with out := .bytes (stuffBytes plaintext) } := rfl

theorem stuffBytes_cons (b : Byte) (rest : List Byte) : stuffBytes (b :: rest) = b :: stuffTail rest := rfl

/-- Stuffing a later byte looks neither at its place nor at its neighbours. -/
theorem stuffTail_eq_flatMap (bs : List Byte) : stuffTail bs = bs.flatMap stuffByte := by
  induction bs with
  | nil => rfl
  | cons b bs ih => rw [stuffTail_cons, List.flatMap_cons, ih]

/-- The two bytes that STUFF escapes after byte 0 (R84). -/
def isReserved (b : Byte) : Bool := b = Config.preamble || b = Config.esc

theorem stuffByte_length (b : Byte) : (stuffByte b).length = 1 + if isReserved b then 1 else 0 := by
  obtain ⟨hb, h⟩ | ⟨hb, h⟩ | ⟨hpre, hesc, h⟩ := stuffByte_cases b
  · rw [h]; simp [isReserved, hb]
  · rw [h]; simp [isReserved, hb]
  · simp [h, isReserved, hpre, hesc]

/-- R126: one byte more for every escaped one. -/
theorem stuffTail_length (bs : List Byte) : (stuffTail bs).length = bs.length + bs.countP isReserved := by
  induction bs with
  | nil => rfl
  | cons b bs ih =>
    rw [stuffTail_cons, List.length_append, stuffByte_length, ih, List.length_cons, List.countP_cons]
    omega

/-- Settles O38: the output is `stuffTail` of the bytes after byte 0, whose image and length the lemmas above give. -/
theorem stuffEscapesAllButByteZero : Obligations.StuffEscapesAllButByteZero := by
  intro s
  refine ⟨exec_stuff [] s, fun b rest => ⟨stuffTail rest, ?runs, ?image, ?length⟩⟩
  case runs => rw [exec_stuff, stuffBytes_cons]
  case image => exact stuffTail_eq_flatMap rest
  case length => exact stuffTail_length rest

end Sys2Proof.Machine
end

section
/-! Proofs about CALL's busy guard (spec/44_transmit.md R182): BUSY is returned mid-receive and nowhere else. -/

namespace Sys2Proof.Machine

/-- The host's CALL is `callCore` and the return of its code. -/
theorem exec_call (address command : Byte) (size : Nat) (data : List Byte) (s : State) :
    exec (.call address command size data) s = publicReturn s (callCore address command size data s) := rfl

/-- R182: mid-receive the guard ends CALL before a frame is built. -/
theorem callCore_of_receiving {size : Nat} {data : List Byte} {s : State} (address command : Byte)
    (hsize : size ≤ 252) (hdata : size ≤ data.length) (hs : s.state ≠ .pending) :
    callCore address command size data s = .next (.busy, s) := by
  rcases callCore_cases address command size data s with
    ⟨hshort, -⟩ | ⟨-, ⟨hbig, -⟩ | ⟨-, -, hbusy⟩ | ⟨-, hpending, -⟩⟩
  · omega
  · omega
  · exact hbusy
  · exact absurd hpending hs

/-- R185, R186: past the guard CALL ends in `OVERFLOW` or `NONE`. -/
theorem transmit_code_ne_busy (stuffed : List Byte) (s : State) : (transmit stuffed s).1 ≠ .busy := by
  rcases transmit_cases stuffed s with ⟨-, h⟩ | ⟨-, h⟩ <;> simp [h]

/-- The guard is the only source of BUSY, whatever the size and the data. -/
theorem state_ne_pending_of_callCore_busy {address command : Byte} {size : Nat} {data : List Byte} {s t : State}
    (h : callCore address command size data s = .next (.busy, t)) : s.state ≠ .pending := by
  obtain ⟨-, ⟨-, hcode, -⟩ | ⟨-, hs, -⟩ | ⟨-, -, htransmit⟩⟩ := callCore_next_cases h
  · cases hcode
  · exact hs
  · exact absurd (congrArg Prod.fst htransmit).symm (transmit_code_ne_busy _ s)

/-- Settles O6: mid-receive the guard answers, and in `Pending` none of CALL's other answers is BUSY. -/
theorem callReturnsBusyWhileReceiving : Obligations.CallReturnsBusyWhileReceiving := by
  intro s address command size data hinit hsize hdata
  refine ⟨fun hreceiving => ?receiving, fun hpending t ht hout => ?pending⟩
  case receiving =>
    rw [exec_call]
    exact publicReturn_of_next hinit (callCore_of_receiving address command hsize hdata hreceiving)
  case pending =>
    rw [exec_call] at ht
    obtain ⟨-, e, u, hcall, rfl⟩ := (publicReturn_next_iff s _ t).mp ht
    obtain rfl : e = .busy := Output.code.inj hout
    exact state_ne_pending_of_callCore_busy hcall hpending

end Sys2Proof.Machine
end

section
/-! Proofs about RX.ABORT (spec/60_exceptions.md R218): the exact state that the recovery sequence leaves. -/

namespace Sys2Proof.Machine

/-- R218, the first half of the sequence: the return to `Pending` with the timer disarmed. -/
theorem toPending_eq (s : State) : toPending s = { s with state := .pending, need := 0, timerStart := 0 } := rfl

/-- R218, the whole sequence: the return to `Pending`, then both receive buffers emptied. -/
theorem abort_eq (s : State) :
    abort s = { s with
      state := .pending, need := 0, timerStart := 0, intake := [], intakeLen := 0, work := [], workLen := 0 } := by
  rw [abort, toPending_eq, clearIntake, clearWork]

/-- RX.ABORT is the abort, and its code goes to the output port whatever the state was. -/
theorem exec_rxAbort (code : ErrorCode) (s : State) :
    exec (.rxAbort code) s = .next (handOut (.code code) (abort s)) := rfl

/-- Settles O28: the code is handed out over the state that the abort leaves. -/
theorem rxAbortReturnsToPending : Obligations.RxAbortReturnsToPending := by
  intro s code
  rw [exec_rxAbort, abort_eq, handOut]

end Sys2Proof.Machine
end

section
/-! Proof about the encodings (spec/30_encoding.md R80 to R94): the decoder undoes the encoder, row by row. -/

namespace Sys2Proof.Machine

/-- Settles O60: every row of the opcode table has its round trip among the laws of the decoder. -/
theorem decodeUndoesEncode : Obligations.DecodeUndoesEncode := by
  intro i
  cases i with
  | init => exact Laws.DecodeEncode.init
  | poll => exact Laws.DecodeEncode.poll
  | call address command size data => exact Laws.DecodeEncode.call address command size data
  | crcBuildTable polynomial => exact Laws.DecodeEncode.crcBuildTable polynomial
  | crcFold data start => exact Laws.DecodeEncode.crcFold data start
  | crcSeed => exact Laws.DecodeEncode.crcSeed
  | crcGen address command size payload => exact Laws.DecodeEncode.crcGen address command size payload
  | crcCheck frame => exact Laws.DecodeEncode.crcCheck frame
  | stuff plaintext => exact Laws.DecodeEncode.stuff plaintext
  | destuff stuffed maxOut => exact Laws.DecodeEncode.destuff stuffed maxOut
  | tmrArm now => exact Laws.DecodeEncode.tmrArm now
  | tmrCheck now => exact Laws.DecodeEncode.tmrCheck now
  | tmrDisarm => exact Laws.DecodeEncode.tmrDisarm
  | rxPending now => exact Laws.DecodeEncode.rxPending now
  | rxReadDestuff => exact Laws.DecodeEncode.rxReadDestuff
  | rxHeader => exact Laws.DecodeEncode.rxHeader
  | rxComplete => exact Laws.DecodeEncode.rxComplete
  | rxDispatch => exact Laws.DecodeEncode.rxDispatch
  | rxFilter frameAddress => exact Laws.DecodeEncode.rxFilter frameAddress
  | rxReply reply => exact Laws.DecodeEncode.rxReply reply
  | rxAbort code => exact Laws.DecodeEncode.rxAbort code
  | read max => exact Laws.DecodeEncode.read max
  | write bytes => exact Laws.DecodeEncode.write bytes
  | now => exact Laws.DecodeEncode.now
  | handle cmd data size => exact Laws.DecodeEncode.handle cmd data size
  | preamble => exact Laws.DecodeEncode.preamble
  | escPreamble => exact Laws.DecodeEncode.escPreamble
  | escEsc => exact Laws.DecodeEncode.escEsc
  | escIllegal m => exact Laws.DecodeEncode.escIllegal m
  | literal b => exact Laws.DecodeEncode.literal b
  | frm f => exact Laws.DecodeEncode.frm f
  | enc f => exact Laws.DecodeEncode.enc f
  | codeNone => exact Laws.DecodeEncode.codeNone
  | codeTimeout => exact Laws.DecodeEncode.codeTimeout
  | codeCrc => exact Laws.DecodeEncode.codeCrc
  | codeInvalidData => exact Laws.DecodeEncode.codeInvalidData
  | codeOverflow => exact Laws.DecodeEncode.codeOverflow
  | codeBusy => exact Laws.DecodeEncode.codeBusy
  | statePending => exact Laws.DecodeEncode.statePending
  | stateHeaderReceiving => exact Laws.DecodeEncode.stateHeaderReceiving
  | stateCompleteReceiving => exact Laws.DecodeEncode.stateCompleteReceiving

end Sys2Proof.Machine
end

section
/-! Proofs about the ranges of the three byte buffers (spec/10_state.md R20, R26, R32; spec/20_memory.md R55 to R59):
one rule per update of a buffer, then one lemma per shared operation, then the operations and the step. -/

namespace Sys2Proof.Machine

/-- The three buffers, their fill lengths and the capacities: all that their ranges speak of. -/
def buffers (s : State) : (Memory × Nat) × (Memory × Nat) × (Memory × Nat) × Nat × Nat :=
  ((s.intake, s.intakeLen), (s.work, s.workLen), (s.tx, s.txLen), s.intakeCapacity, s.txCapacity)

/-- An update that touches no buffer and no capacity keeps the ranges. -/
theorem BuffersInRange.of_buffers_eq {s t : State} (h : BuffersInRange s) (e : buffers t = buffers s) :
    BuffersInRange t := by
  simp only [buffers, Prod.mk.injEq] at e
  obtain ⟨⟨hi, hil⟩, ⟨hw, hwl⟩, ⟨hx, hxl⟩, hic, hxc⟩ := e
  exact ⟨by rw [hi, hil]; exact h.intakeDense, by rw [hw, hwl]; exact h.workDense, by rw [hx, hxl]; exact h.txDense,
    by rw [hil, hic]; exact h.intakeBound, by rw [hwl]; exact h.workBound, by rw [hxl, hxc]; exact h.txBound⟩

/-- R27: the receive buffers of such a context are two byte sequences. -/
theorem BuffersInRange.sequences {s : State} (h : BuffersInRange s) : ∃ held ws : List Byte,
    s.intake = Memory.ofBytes held ∧ s.intakeLen = held.length ∧
      s.work = Memory.ofBytes ws ∧ s.workLen = ws.length := by
  obtain ⟨held, hi, hil⟩ := (Memory.dense_iff _ _).mp h.intakeDense
  obtain ⟨ws, hw, hwl⟩ := (Memory.dense_iff _ _).mp h.workDense
  exact ⟨held, ws, hi, hil, hw, hwl⟩

/-! ### The updates of a buffer -/

theorem BuffersInRange.intake_ofBytes {s : State} (h : BuffersInRange s) (bs : List Byte)
    (hl : bs.length ≤ s.intakeCapacity) :
    BuffersInRange { s with intake := Memory.ofBytes bs, intakeLen := bs.length } :=
  { h with intakeDense := Memory.dense_ofBytes bs, intakeBound := hl }

theorem BuffersInRange.work_ofBytes {s : State} (h : BuffersInRange s) (bs : List Byte) (hl : bs.length ≤ 256) :
    BuffersInRange { s with work := Memory.ofBytes bs, workLen := bs.length } :=
  { h with workDense := Memory.dense_ofBytes bs, workBound := hl }

theorem setTx_inRange {s : State} (h : BuffersInRange s) {bs : List Byte} (hl : bs.length ≤ s.txCapacity) :
    BuffersInRange (setTx bs s) :=
  { h with txDense := Memory.dense_ofBytes bs, txBound := hl }

theorem clearIntake_inRange {s : State} (h : BuffersInRange s) : BuffersInRange (clearIntake s) :=
  h.intake_ofBytes [] (Nat.zero_le _)

theorem clearWork_inRange {s : State} (h : BuffersInRange s) : BuffersInRange (clearWork s) :=
  h.work_ofBytes [] (Nat.zero_le _)

theorem toPending_inRange {s : State} (h : BuffersInRange s) : BuffersInRange (toPending s) := h.of_buffers_eq rfl

theorem abort_inRange {s : State} (h : BuffersInRange s) : BuffersInRange (abort s) :=
  clearWork_inRange (clearIntake_inRange (toPending_inRange h))

/-- R195: INIT empties the three buffers, whatever they held. -/
theorem initCore_inRange (s : State) : BuffersInRange (initCore s) :=
  ⟨rfl, rfl, rfl, Nat.zero_le _, Nat.zero_le _, Nat.zero_le _⟩

/-- A withheld byte needs room for one byte in `intake` (R158). -/
theorem keepIntake_inRange {hold : Bool} {s : State} (h : BuffersInRange s) (hc : 1 ≤ s.intakeCapacity) :
    BuffersInRange (keepIntake hold s) := by
  cases hold with
  | false => exact clearIntake_inRange h
  | true => exact h.intake_ofBytes [Config.esc] hc

/-- The free length of `tx` is within its capacity (R185, log entry 9). -/
theorem freeTxLength_le (s : State) : freeTxLength s ≤ s.txCapacity :=
  Nat.lt_succ_iff.mp (Nat.mod_lt _ (Nat.succ_pos _))

theorem unspecifiedTx_inRange {s : State} (h : BuffersInRange s) : BuffersInRange (unspecifiedTx s) :=
  (setTx_inRange h (by simpa using freeTxLength_le s)).of_buffers_eq rfl

/-! ### The shared operations -/

/-- The two answers of the last two steps of CALL. -/
theorem transmit_next_cases {stuffed : List Byte} {s t : State} {e : ErrorCode} (h : (e, t) = transmit stuffed s) :
    (s.txCapacity < stuffed.length ∧ e = .overflow ∧ t = unspecifiedTx s) ∨
    (stuffed.length ≤ s.txCapacity ∧ e = .none ∧ t = afterWrite stuffed (setTx stuffed s)) := by
  obtain ⟨hlong, hc⟩ | ⟨hfits, hc⟩ := transmit_cases stuffed s <;> rw [hc, Prod.mk.injEq] at h
  · exact .inl ⟨hlong, h⟩
  · exact .inr ⟨hfits, h⟩

theorem transmit_inRange {stuffed : List Byte} {s t : State} {e : ErrorCode} (h : BuffersInRange s)
    (ht : (e, t) = transmit stuffed s) : BuffersInRange t := by
  obtain ⟨-, -, rfl⟩ | ⟨hfits, -, rfl⟩ := transmit_next_cases ht
  · exact unspecifiedTx_inRange h
  · exact (setTx_inRange h hfits).of_buffers_eq rfl

theorem callCore_inRange {address command : Byte} {size : Nat} {data : List Byte} {s t : State} {e : ErrorCode}
    (h : BuffersInRange s) (hc : callCore address command size data s = .next (e, t)) : BuffersInRange t := by
  obtain ⟨-, ⟨-, -, rfl⟩ | ⟨-, -, -, rfl⟩ | ⟨-, -, ht⟩⟩ := callCore_next_cases hc
  · exact h
  · exact h
  · exact transmit_inRange h ht

theorem rxReply_inRange {reply : Reply} {s t : State} {e : ErrorCode} (h : BuffersInRange s)
    (hr : rxReply reply s = .next (e, t)) : BuffersInRange t := by
  obtain ⟨a, c, -, -, hc⟩ := rxReply_next hr
  exact callCore_inRange h hc

theorem delivered_inRange {s : State} (h : BuffersInRange s) (f : Frame) : BuffersInRange (delivered f s) :=
  h.of_buffers_eq rfl

theorem rxDispatch_inRange {s t : State} {e : ErrorCode} (h : BuffersInRange s) (hd : rxDispatch s = .next (e, t)) :
    BuffersInRange t := by
  obtain ⟨f, -, ⟨-, -, rfl⟩ | ⟨-, hdel⟩⟩ := rxDispatch_next_cases hd
  · exact abort_inRange h
  obtain ⟨-, -, rfl⟩ | ⟨-, ⟨-, -, rfl⟩ | ⟨-, hr⟩⟩ := deliver_next_cases hdel
  · exact toPending_inRange h
  · exact delivered_inRange h f
  · exact rxReply_inRange (delivered_inRange h f) hr

/-- R56, R57: the intake bound is tested before the READ, and what DESTUFF appends fits the room left in `work`. -/
theorem rxReadDestuff_inRange {s t : State} {r : ReadResult} (h : BuffersInRange s)
    (hr : rxReadDestuff s = .next (r, t)) : BuffersInRange t := by
  obtain ⟨held, ws, hi, hil, hw, hwl⟩ := h.sequences
  have hread : BuffersInRange (afterRead s.need.toNat s) := h.of_buffers_eq rfl
  obtain ⟨-, -, rfl⟩ | ⟨hroom, hmax, ⟨-, -, rfl⟩ | ⟨-, rfl⟩ | ⟨body, hold, decoded, hnew, -, -, hok, -, rfl⟩⟩ :=
    rxReadDestuff_next_cases hi hil hw hwl hr
  · exact abort_inRange h
  · exact hread
  · exact (abort_inRange hread).of_buffers_eq rfl
  · have hintake : (held ++ readAnswer s.need.toNat s).length ≤ s.intakeCapacity := by
      rw [List.length_append]; omega
    have hwork : (ws ++ decoded).length ≤ 256 := by
      have hle := (destuffBytes_length_le body hok).2
      have hbound := h.workBound
      rw [List.length_append]
      simp only [Config.capacity] at hle
      omega
    have hpos : 1 ≤ s.intakeCapacity := by
      have := List.length_pos_of_ne_nil hnew
      omega
    exact keepIntake_inRange ((hread.intake_ofBytes _ hintake).work_ofBytes _ hwork) hpos

theorem rxPending_inRange {now : U32} {s t : State} {e : ErrorCode} (h : BuffersInRange s)
    (hp : rxPending now s = .next (e, t)) : BuffersInRange t := by
  have hread : BuffersInRange (afterRead 1 s) := h.of_buffers_eq rfl
  obtain ⟨-, ⟨-, rfl⟩ | ⟨-, rfl⟩ | ⟨-, rfl⟩⟩ := rxPending_next_cases hp
  · exact hread
  · exact (clearWork_inRange (clearIntake_inRange hread)).of_buffers_eq rfl
  · exact hread

theorem headerStep_inRange {r : ReadResult} {s t : State} {e : ErrorCode} (h : BuffersInRange s)
    (hs : headerStep r s = .next (e, t)) : BuffersInRange t := by
  obtain ⟨-, -, rfl⟩ | ⟨-, rfl⟩ | ⟨-, ⟨-, -, rfl⟩ | ⟨-, size, -, ⟨-, -, rfl⟩ | ⟨-, -, rfl⟩⟩⟩ := headerStep_next_cases hs
  · exact h
  · exact h
  · exact h.of_buffers_eq rfl
  · exact (abort_inRange h).of_buffers_eq rfl
  · exact h.of_buffers_eq rfl

theorem completeStep_inRange {r : ReadResult} {s t : State} {e : ErrorCode} (h : BuffersInRange s)
    (hs : completeStep r s = .next (e, t)) : BuffersInRange t := by
  obtain ⟨-, -, rfl⟩ | ⟨-, rfl⟩ | ⟨-, size, -, ⟨-, -, rfl⟩ | ⟨-, hd⟩⟩ := completeStep_next_cases hs
  · exact h
  · exact h
  · exact h.of_buffers_eq rfl
  · exact rxDispatch_inRange (h.of_buffers_eq rfl) hd

theorem rxHeader_inRange {s t : State} {e : ErrorCode} (h : BuffersInRange s) (hr : rxHeader s = .next (e, t)) :
    BuffersInRange t := by
  obtain ⟨r, u, hread, hstep⟩ := (andThen_next_iff _ _ _ _).mp hr
  exact headerStep_inRange (rxReadDestuff_inRange h hread) hstep

theorem rxComplete_inRange {s t : State} {e : ErrorCode} (h : BuffersInRange s) (hr : rxComplete s = .next (e, t)) :
    BuffersInRange t := by
  obtain ⟨r, u, hread, hstep⟩ := (andThen_next_iff _ _ _ _).mp hr
  exact completeStep_inRange (rxReadDestuff_inRange h hread) hstep

theorem pollCore_inRange {s t : State} {e : ErrorCode} (h : BuffersInRange s) (hp : pollCore s = .next (e, t)) :
    BuffersInRange t := by
  have hnow : BuffersInRange (afterNow s) := h.of_buffers_eq rfl
  unfold pollCore at hp
  obtain ⟨-, hc⟩ | ⟨-, ⟨-, hc⟩ | ⟨-, hc⟩ | ⟨-, hc⟩⟩ := pollWith_cases (nowAnswer s) (afterNow s) <;> rw [hc] at hp
  · cases hp
    exact abort_inRange hnow
  · exact rxPending_inRange hnow hp
  · exact rxHeader_inRange hnow hp
  · exact rxComplete_inRange hnow hp

/-- R56: decoded bytes are written into `work` only where they fit it. -/
theorem decodedCore_inRange {bytes : List Byte} {s t : State} {e : ErrorCode} (h : BuffersInRange s)
    (hd : decodedCore bytes s = .next (e, t)) : BuffersInRange t := by
  have hold (hl : bytes.length ≤ 256) : BuffersInRange (holdBytes bytes s) :=
    holdBytes_eq bytes s ▸ h.work_ofBytes bytes hl
  rcases decodedCore_cases bytes s with
    ⟨-, hc⟩ | ⟨hlt, hc⟩ | ⟨hl, size, -, ⟨-, hc⟩ | ⟨-, -, hc⟩ | ⟨-, -, hc⟩⟩ <;> rw [hc] at hd
  · cases hd
    exact abort_inRange h
  · cases hd
    exact (hold (by omega)).of_buffers_eq rfl
  · cases hd
    exact abort_inRange h
  · cases hd
    exact (hold hl).of_buffers_eq rfl
  · exact rxDispatch_inRange (hold hl) hd

/-! ### The ends of an operation, and the bytes of the link -/

/-- An operation that answers at once, having written to no buffer of a context in range. -/
theorem next_inRange {s t u : State} (h : BuffersInRange s)
    (e : (.next u : Host.Outcome State Fault Refusal) = .next t) (same : buffers u = buffers s) : BuffersInRange t := by
  cases e
  exact h.of_buffers_eq same

theorem hand_inRange {α : Type} {r : Res α} {f : α → Output} {t : State}
    (h : ∀ a u, r = .next (a, u) → BuffersInRange u) (e : hand r f = .next t) : BuffersInRange t := by
  obtain ⟨a, u, hr, rfl⟩ := (hand_next_iff _ _ _).mp e
  exact (h a u hr).of_buffers_eq rfl

theorem publicReturn_inRange {r : Res ErrorCode} {s t : State} (h : ∀ c u, r = .next (c, u) → BuffersInRange u)
    (e : publicReturn s r = .next t) : BuffersInRange t := by
  obtain ⟨-, c, u, hr, rfl⟩ := (publicReturn_next_iff _ _ _).mp e
  exact (h c u hr).of_buffers_eq rfl

theorem hostPoll_inRange {s t : State} (h : BuffersInRange s) (e : hostPoll s = .next t) : BuffersInRange t :=
  publicReturn_inRange (fun _ _ => pollCore_inRange h) e

theorem meetBytes_inRange {bs : List Byte} {s t : State} (h : BuffersInRange s) (e : meetBytes bs s = .next t) :
    BuffersInRange t :=
  meetBytes_keeps BuffersInRange (fun _ _ hs => hs.of_buffers_eq rfl) (fun _ _ => hostPoll_inRange) bs s t h e

/-! ### Every operation, every step -/

/-- CRC.GEN is its answer, handed over. -/
theorem exec_crcGen (address command size : Byte) (payload : List Byte) (s : State) :
    exec (.crcGen address command size payload) s = hand (.next (crcGenAnswer address command size payload s)) .byte :=
  rfl

theorem exec_inRange (i : Instr) {s t : State} (h : BuffersInRange s) (e : exec i s = .next t) : BuffersInRange t := by
  cases i with
  | init => exact next_inRange (initCore_inRange s) e rfl
  | poll => exact hostPoll_inRange h e
  | call address command size data => exact publicReturn_inRange (fun _ _ => callCore_inRange h) e
  | crcBuildTable polynomial => exact next_inRange h e rfl
  | crcFold data start => exact next_inRange h e rfl
  | crcSeed => exact next_inRange h e rfl
  | crcGen address command size payload =>
    rw [exec_crcGen] at e
    refine hand_inRange (fun v u hu => ?_) e
    obtain ⟨-, hc⟩ | ⟨-, hc⟩ := crcGenAnswer_cases address command size payload s <;> rw [hc] at hu <;> cases hu
    · exact h
    · exact h.of_buffers_eq rfl
  | crcCheck frame => exact next_inRange h e rfl
  | stuff plaintext => exact next_inRange h e rfl
  | destuff stuffed maxOut => exact next_inRange h e rfl
  | tmrArm now => exact next_inRange h e rfl
  | tmrCheck now => exact next_inRange h e rfl
  | tmrDisarm => exact next_inRange h e rfl
  | rxPending now => exact hand_inRange (fun _ _ => rxPending_inRange h) e
  | rxReadDestuff => exact hand_inRange (fun _ _ => rxReadDestuff_inRange h) e
  | rxHeader => exact hand_inRange (fun _ _ => rxHeader_inRange h) e
  | rxComplete => exact hand_inRange (fun _ _ => rxComplete_inRange h) e
  | rxDispatch => exact hand_inRange (fun _ _ => rxDispatch_inRange h) e
  | rxFilter frameAddress => exact next_inRange h e rfl
  | rxReply reply => exact hand_inRange (fun _ _ => rxReply_inRange h) e
  | rxAbort code => exact next_inRange (abort_inRange h) e rfl
  | read max =>
    refine hand_inRange (fun new u hu => ?_) e
    obtain ⟨-, rfl, -⟩ := (callRead_next_iff _ _ _ _).mp hu
    exact h.of_buffers_eq rfl
  | write bytes => exact next_inRange h e rfl
  | now => exact next_inRange h e rfl
  | handle cmd data size => exact next_inRange h e rfl
  | preamble => exact meetBytes_inRange h e
  | escPreamble => exact meetBytes_inRange h e
  | escEsc => exact meetBytes_inRange h e
  | escIllegal m => exact meetBytes_inRange h e
  | literal b => exact meetBytes_inRange h e
  | frm f => exact hand_inRange (fun _ _ => decodedCore_inRange h) e
  | enc f => exact meetBytes_inRange h e
  | codeNone => exact next_inRange h e rfl
  | codeTimeout => exact next_inRange h e rfl
  | codeCrc => exact next_inRange h e rfl
  | codeInvalidData => exact next_inRange h e rfl
  | codeOverflow => exact next_inRange h e rfl
  | codeBusy => exact next_inRange h e rfl
  | statePending => exact next_inRange h e rfl
  | stateHeaderReceiving => exact next_inRange h e rfl
  | stateCompleteReceiving => exact next_inRange h e rfl

theorem step_inRange {s t : State} (h : BuffersInRange s) (e : step s = .next t) : BuffersInRange t := by
  have hport (rest : List PortWord) : BuffersInRange { s with port := rest } := h.of_buffers_eq rfl
  obtain ⟨-, rfl⟩ | ⟨w, rest, i, -, -, hi⟩ | ⟨w, rest, x, -, -, hu⟩ := step_next_cases e
  · exact h
  · exact exec_inRange i (hport rest) hi
  · obtain ⟨bytes, -, hm⟩ | ⟨bytes, -, hd⟩ := meetUndecoded_next_cases hu
    · exact meetBytes_inRange (hport rest) hm
    · exact hand_inRange (fun _ _ => decodedCore_inRange (hport rest)) hd

/-- Settles O31: each operation, and each word, by the lemma of the shared operation that it runs. -/
theorem buffersStayInRange : Obligations.BuffersStayInRange :=
  ⟨fun i _ _ => exec_inRange i, fun _ _ => step_inRange⟩

end Sys2Proof.Machine
end

section
/-! What one POLL can do (spec/43_frame_assembler.md R151 to R165), said once for every context, and what follows for
its callbacks, its transitions, the transport and the registers it leaves. -/

namespace Sys2Proof.Machine

/-- The host's POLL is `pollCore` and the return of its code. -/
theorem exec_poll (s : State) : exec .poll s = publicReturn s (pollCore s) := rfl

/-- The registers that a reception in progress writes: the state, `need` and the two receive buffers. -/
def collected (state : RxState) (need : BitVec 8) (intake work : Memory × Nat) (s : State) : State :=
  { s with
    state := state, need := need, intake := intake.1, intakeLen := intake.2, work := work.1, workLen := work.2 }

theorem keepIntake_eq_collected (hold : Bool) (s : State) :
    ∃ intake, keepIntake hold s = collected s.state s.need intake (s.work, s.workLen) s := by
  cases hold
  · exact ⟨([], 0), rfl⟩
  · exact ⟨([(0, Config.esc)], 1), rfl⟩

/-- What RX.READ_DESTUFF can do, whatever its buffers hold (R155 to R159). -/
theorem rxReadDestuff_ends {s t : State} {r : ReadResult} (h : rxReadDestuff s = .next (r, t)) :
    (r = .aborted .overflow ∧ t = abort s) ∨
    ((readAnswer s.need.toNat s).length ≤ s.need.toNat ∧
      ((r = .noProgress ∧ t = afterRead s.need.toNat s) ∨
       (r = .aborted .invalidData ∧ t = abort (afterRead s.need.toNat s)) ∨
       (r = .progress ∧ ∃ intake work, t = collected s.state s.need intake work (afterRead s.need.toNat s)))) := by
  unfold rxReadDestuff at h
  split_ifs at h with hfull
  · cases h
    exact .inl ⟨rfl, rfl⟩
  obtain ⟨new, u, hread, htake⟩ := (andThen_next_iff _ _ _ _).mp h
  obtain ⟨-, rfl, hle⟩ := (callRead_next_iff _ _ _ _).mp hread
  refine .inr ⟨hle, ?_⟩
  cases new with
  | nil =>
    cases htake
    exact .inl ⟨rfl, rfl⟩
  | cons b bs =>
    simp only [takeNew] at htake
    split_ifs at htake with hstray
    · cases htake
      exact .inr (.inl ⟨rfl, rfl⟩)
    unfold destuffIntake at htake
    cases hbytes : intakeBytes (appendIntake (b :: bs) (afterRead s.need.toNat s)) with
    | none => rw [hbytes] at htake; cases htake
    | some bytes =>
      rw [hbytes] at htake
      simp only at htake
      obtain ⟨-, hc⟩ | ⟨kind, -, hc⟩ | ⟨decoded, -, -, hc⟩ :=
        destuffBody_cases (splitHeld bytes).1 (splitHeld bytes).2
          (appendIntake (b :: bs) (afterRead s.need.toNat s)) <;>
        rw [hc] at htake <;> cases htake
      · obtain ⟨intake, hkeep⟩ := keepIntake_eq_collected (splitHeld bytes).2 _
        exact .inr (.inr ⟨rfl, intake, (_, _), hkeep⟩)
      · exact .inr (.inl ⟨rfl, rfl⟩)
      · obtain ⟨intake, hkeep⟩ := keepIntake_eq_collected (splitHeld bytes).2 _
        exact .inr (.inr ⟨rfl, intake, (_, _), hkeep⟩)

/-- R162 to R164: the ends of RX.DISPATCH, by the code and the state they leave. -/
inductive DispatchEnds (v : State) : ErrorCode → State → Prop
  | badChecksum : DispatchEnds v .crc (abort v)
  | filtered : DispatchEnds v .none (toPending v)
  | handled (f : Frame) : DispatchEnds v .none (delivered f v)
  | oversizedReply (f : Frame) : DispatchEnds v .invalidData (delivered f v)
  | replied (f : Frame) (stuffed : List Byte) :
      DispatchEnds v .none (afterWrite stuffed (setTx stuffed (delivered f v)))
  | replyOverflow (f : Frame) : DispatchEnds v .overflow (unspecifiedTx (delivered f v))

/-- R164: the nested CALL comes after the return to `Pending`, so it never meets its busy guard. -/
theorem rxReply_ends {reply : Reply} {f : Frame} {v t : State} {e : ErrorCode}
    (h : rxReply reply (delivered f v) = .next (e, t)) : DispatchEnds v e t := by
  obtain ⟨a, c, -, -, hcall⟩ := rxReply_next h
  obtain ⟨-, ⟨-, rfl, rfl⟩ | ⟨-, hbusy, -⟩ | ⟨-, -, ht⟩⟩ := callCore_next_cases hcall
  · exact .oversizedReply f
  · exact absurd rfl hbusy
  · obtain ⟨-, rfl, rfl⟩ | ⟨-, rfl, rfl⟩ := transmit_next_cases ht
    · exact .replyOverflow f
    · exact .replied f _

theorem rxDispatch_ends {v t : State} {e : ErrorCode} (h : rxDispatch v = .next (e, t)) : DispatchEnds v e t := by
  obtain ⟨f, -, ⟨-, rfl, rfl⟩ | ⟨-, hdeliver⟩⟩ := rxDispatch_next_cases h
  · exact .badChecksum
  obtain ⟨-, rfl, rfl⟩ | ⟨-, ⟨-, rfl, rfl⟩ | ⟨-, hreply⟩⟩ := deliver_next_cases hdeliver
  · exact .filtered
  · exact .handled f
  · exact rxReply_ends hreply

/-- R151 to R164: the ends of POLL, by the code and the state they leave; where it came to its READ, the bound that READ
kept. -/
inductive PollEnds (s : State) : ErrorCode → State → Prop
  | expired : PollEnds s .timeout (abort (afterNow s))
  | nothing (idle : s.state = .pending) (bound : (readAnswer 1 (afterNow s)).length ≤ 1) :
      PollEnds s .none (afterRead 1 (afterNow s))
  | discarded (idle : s.state = .pending) (bound : (readAnswer 1 (afterNow s)).length ≤ 1) :
      PollEnds s .invalidData (afterRead 1 (afterNow s))
  | begun (idle : s.state = .pending) (bound : (readAnswer 1 (afterNow s)).length ≤ 1) :
      PollEnds s .none (beginFrame (nowAnswer s) (afterRead 1 (afterNow s)))
  | noRoom (receiving : s.state ≠ .pending) : PollEnds s .overflow (abort (afterNow s))
  | noProgress (receiving : s.state ≠ .pending)
      (bound : (readAnswer s.need.toNat (afterNow s)).length ≤ s.need.toNat) :
      PollEnds s .none (afterRead s.need.toNat (afterNow s))
  | rejected (receiving : s.state ≠ .pending)
      (bound : (readAnswer s.need.toNat (afterNow s)).length ≤ s.need.toNat) :
      PollEnds s .invalidData (abort (afterRead s.need.toNat (afterNow s)))
  | collecting (state : RxState) (need : BitVec 8) (intake work : Memory × Nat) (receiving : s.state ≠ .pending)
      (bound : (readAnswer s.need.toNat (afterNow s)).length ≤ s.need.toNat)
      (onward : s.state = .completeReceiving → state = .completeReceiving) :
      PollEnds s .none (collected state need intake work (afterRead s.need.toNat (afterNow s)))
  | dispatched (intake work : Memory × Nat) (e : ErrorCode) (t : State) (complete : s.state = .completeReceiving)
      (bound : (readAnswer s.need.toNat (afterNow s)).length ≤ s.need.toNat)
      (ends : DispatchEnds (collected s.state 0 intake work (afterRead s.need.toNat (afterNow s))) e t) :
      PollEnds s e t

/-- The ends of a POLL in `HeaderReceiving`. -/
theorem rxHeader_ends {s t : State} {e : ErrorCode} (hs : s.state = .headerReceiving)
    (h : rxHeader (afterNow s) = .next (e, t)) : PollEnds s e t := by
  have receiving : s.state ≠ .pending := by rw [hs]; decide
  obtain ⟨r, u, hread, hstep⟩ := (andThen_next_iff _ _ _ _).mp h
  obtain ⟨rfl, rfl⟩ | ⟨bound, ⟨rfl, rfl⟩ | ⟨rfl, rfl⟩ | ⟨rfl, intake, work, rfl⟩⟩ := rxReadDestuff_ends hread
  · cases hstep
    exact .noRoom receiving
  · cases hstep
    exact .noProgress receiving bound
  · cases hstep
    exact .rejected receiving bound
  · obtain ⟨hr, -⟩ | ⟨hr, -⟩ | ⟨-, ⟨-, rfl, rfl⟩ | ⟨-, size, -, ⟨-, rfl, rfl⟩ | ⟨-, rfl, rfl⟩⟩⟩ :=
      headerStep_next_cases hstep
    · cases hr
    · cases hr
    · exact .collecting s.state (BitVec.ofNat 8 (3 - work.2)) intake work receiving bound id
    · exact .rejected receiving bound
    · exact .collecting .completeReceiving _ intake work receiving bound (fun _ => rfl)

/-- The ends of a POLL in `CompleteReceiving`. -/
theorem rxComplete_ends {s t : State} {e : ErrorCode} (hs : s.state = .completeReceiving)
    (h : rxComplete (afterNow s) = .next (e, t)) : PollEnds s e t := by
  have receiving : s.state ≠ .pending := by rw [hs]; decide
  obtain ⟨r, u, hread, hstep⟩ := (andThen_next_iff _ _ _ _).mp h
  obtain ⟨rfl, rfl⟩ | ⟨bound, ⟨rfl, rfl⟩ | ⟨rfl, rfl⟩ | ⟨rfl, intake, work, rfl⟩⟩ := rxReadDestuff_ends hread
  · cases hstep
    exact .noRoom receiving
  · cases hstep
    exact .noProgress receiving bound
  · cases hstep
    exact .rejected receiving bound
  · obtain ⟨hr, -⟩ | ⟨hr, -⟩ | ⟨-, size, -, ⟨-, rfl, rfl⟩ | ⟨-, hdispatch⟩⟩ := completeStep_next_cases hstep
    · cases hr
    · cases hr
    · exact .collecting s.state (BitVec.ofNat 8 (3 + size.toNat + 1 - work.2)) intake work receiving bound id
    · exact .dispatched intake work e t hs bound (rxDispatch_ends hdispatch)

theorem pollCore_ends {s t : State} {e : ErrorCode} (h : pollCore s = .next (e, t)) : PollEnds s e t := by
  unfold pollCore at h
  obtain ⟨-, hc⟩ | ⟨-, ⟨hs, hc⟩ | ⟨hs, hc⟩ | ⟨hs, hc⟩⟩ := pollWith_cases (nowAnswer s) (afterNow s) <;> rw [hc] at h
  · cases h
    exact .expired
  · obtain ⟨bound, ⟨rfl, rfl⟩ | ⟨rfl, rfl⟩ | ⟨rfl, rfl⟩⟩ := rxPending_next_cases h
    · exact .nothing hs bound
    · exact .begun hs bound
    · exact .discarded hs bound
  · exact rxHeader_ends hs h
  · exact rxComplete_ends hs h

/-- Every POLL that answers is one of the ends, with its code returned. -/
theorem exec_poll_ends {s t : State} (h : exec .poll s = .next t) :
    ∃ e u, PollEnds s e u ∧ t = returnCode e u := by
  rw [exec_poll] at h
  obtain ⟨-, e, u, hp, rfl⟩ := (publicReturn_next_iff _ _ _).mp h
  exact ⟨e, u, pollCore_ends hp, rfl⟩

/-! ### The configuration, the transport, the transitions -/

/-- What no POLL writes (R29, R31, R37). -/
def configuration (s : State) :=
  (s.crcTable, s.ownAddress, s.timeoutMs, s.intakeCapacity, s.txCapacity, s.replyHeader, s.port, s.initialised)

theorem DispatchEnds.configuration_eq {v t : State} {e : ErrorCode} (h : DispatchEnds v e t) :
    configuration t = configuration v := by
  cases h <;> rfl

theorem PollEnds.configuration_eq {s t : State} {e : ErrorCode} (h : PollEnds s e t) :
    configuration t = configuration s := by
  cases h with
  | dispatched intake work e t complete bound ends => exact ends.configuration_eq
  | _ => rfl

/-- Settles O18: none of the ends writes the configuration. -/
theorem pollLeavesTableAndConfiguration : Obligations.PollLeavesTableAndConfiguration := by
  intro s t h
  obtain ⟨e, u, hu, rfl⟩ := exec_poll_ends h
  simpa [configuration] using hu.configuration_eq

theorem DispatchEnds.rx_eq {v t : State} {e : ErrorCode} (h : DispatchEnds v e t) : t.rx = v.rx := by
  cases h <;> rfl

/-- R155, R196: the transport loses nothing, or what one READ within the bound of the state delivers. -/
theorem PollEnds.rx_cases {s t : State} {e : ErrorCode} (h : PollEnds s e t) :
    t.rx = s.rx ∨ ((readAnswer (readBound s) (afterNow s)).length ≤ readBound s ∧
      t.rx = (afterRead (readBound s) (afterNow s)).rx) := by
  have idleBound (hs : s.state = .pending) : readBound s = 1 := by simp [readBound, hs]
  have needBound (hs : s.state ≠ .pending) : readBound s = s.need.toNat := by
    cases hst : s.state <;> simp_all [readBound]
  cases h with
  | expired => exact .inl rfl
  | nothing idle bound => rw [idleBound idle]; exact .inr ⟨bound, rfl⟩
  | discarded idle bound => rw [idleBound idle]; exact .inr ⟨bound, rfl⟩
  | begun idle bound => rw [idleBound idle]; exact .inr ⟨bound, rfl⟩
  | noRoom receiving => exact .inl rfl
  | noProgress receiving bound => rw [needBound receiving]; exact .inr ⟨bound, rfl⟩
  | rejected receiving bound => rw [needBound receiving]; exact .inr ⟨bound, rfl⟩
  | collecting state need intake work receiving bound onward =>
    rw [needBound receiving]; exact .inr ⟨bound, rfl⟩
  | dispatched intake work e t complete bound ends =>
    rw [needBound (by rw [complete]; decide)]
    exact .inr ⟨bound, ends.rx_eq⟩

/-- Settles O17: what READ hands over and what it leaves are what was waiting. -/
theorem pollTakesAtMostItsBound : Obligations.PollTakesAtMostItsBound := by
  intro s t h
  obtain ⟨e, u, hu, rfl⟩ := exec_poll_ends h
  obtain hrx | ⟨hle, hrx⟩ := hu.rx_cases
  · exact ⟨[], hrx.symm, Nat.zero_le _⟩
  · refine ⟨readAnswer (readBound s) (afterNow s), ?_, hle⟩
    rw [returnCode_rx, hrx]
    exact (readAnswer_append_rx _ (afterNow s)).symm

theorem DispatchEnds.state_eq {v t : State} {e : ErrorCode} (h : DispatchEnds v e t) : t.state = .pending := by
  cases h <;> rfl

/-- Settles O16: the state after each of the ends. -/
theorem pollTransitions : Obligations.PollTransitions := by
  intro s t h
  obtain ⟨e, u, hu, rfl⟩ := exec_poll_ends h
  rw [returnCode_state]
  cases hu with
  | expired => exact ⟨fun _ => .inl rfl, fun _ => .inl rfl⟩
  | nothing idle bound => exact ⟨fun _ => .inl idle, fun _ => .inl idle⟩
  | discarded idle bound => exact ⟨fun _ => .inl idle, fun _ => .inl idle⟩
  | begun idle bound => exact ⟨fun _ => .inr rfl, fun hc => by rw [idle] at hc; cases hc⟩
  | noRoom receiving => exact ⟨fun _ => .inl rfl, fun _ => .inl rfl⟩
  | noProgress receiving bound => exact ⟨fun hs => absurd hs receiving, .inr⟩
  | rejected receiving bound => exact ⟨fun _ => .inl rfl, fun _ => .inl rfl⟩
  | collecting state need intake work receiving bound onward =>
    exact ⟨fun hs => absurd hs receiving, fun hc => .inr (onward hc)⟩
  | dispatched intake work e t complete bound ends => exact ⟨fun _ => .inl ends.state_eq, fun _ => .inl ends.state_eq⟩

/-! ### The aborts -/

/-- R218: the context stands as an abort leaves it, and `tx` as it was in `s`. -/
structure AbortedFrom (s t : State) : Prop where
  state : t.state = .pending
  need : t.need = 0
  timer : t.timerStart = 0
  intake : t.intakeLen = 0
  work : t.workLen = 0
  tx : t.tx = s.tx
  txLen : t.txLen = s.txLen

theorem DispatchEnds.aborted_of_crc {v t : State} (h : DispatchEnds v .crc t) : AbortedFrom v t := by
  cases h
  exact ⟨rfl, rfl, rfl, rfl, rfl, rfl, rfl⟩

theorem DispatchEnds.code_ne_timeout {v t : State} {e : ErrorCode} (h : DispatchEnds v e t) : e ≠ .timeout := by
  cases h <;> decide

/-- R215: `TIMEOUT` and `CRC` come with the abort. -/
theorem PollEnds.aborted {s t : State} {e : ErrorCode} (h : PollEnds s e t) (he : e = .timeout ∨ e = .crc) :
    AbortedFrom s t := by
  cases h with
  | expired => exact ⟨rfl, rfl, rfl, rfl, rfl, rfl, rfl⟩
  | dispatched intake work e t complete bound ends =>
    obtain rfl | rfl := he
    · exact absurd rfl ends.code_ne_timeout
    · exact { ends.aborted_of_crc with }
  | _ => simp at he

/-- Settles O19. -/
theorem pollTimeoutAndCrcAbort : Obligations.PollTimeoutAndCrcAbort := by
  intro s t h hout
  obtain ⟨e, u, hu, rfl⟩ := exec_poll_ends h
  have he : e = .timeout ∨ e = .crc := by simpa using hout
  obtain ⟨hstate, hneed, htimer, hintake, hwork, htx, htxLen⟩ := hu.aborted he
  exact ⟨hstate, hneed, htimer, hintake, hwork, htx, htxLen⟩

/-! ### The callbacks -/

/-- At most one event of a kind, and none of another. -/
def AtMostOne (kind : Event → Prop) (events : List Event) : Prop := events.length ≤ 1 ∧ ∀ v ∈ events, kind v

theorem atMostOne_nil (kind : Event → Prop) : AtMostOne kind [] := ⟨Nat.zero_le _, by simp⟩

theorem atMostOne_singleton {kind : Event → Prop} {v : Event} (h : kind v) : AtMostOne kind [v] :=
  ⟨Nat.le_refl _, by simpa using h⟩

def isRead (v : Event) : Prop := ∃ max bytes, v = .read max bytes
def isHandle (v : Event) : Prop := ∃ cmd data size reply, v = .handle cmd data size reply
def isWrite (v : Event) : Prop := ∃ bytes written, v = .write bytes written

/-- R162 to R164: RX.DISPATCH invokes HANDLE at most once, then WRITE at most once, and never answers BUSY. -/
theorem DispatchEnds.trace_eq {v t : State} {e : ErrorCode} (h : DispatchEnds v e t) :
    ∃ handles writes, t.trace = v.trace ++ (handles ++ writes) ∧ e ≠ .busy ∧ AtMostOne isHandle handles ∧
      AtMostOne isWrite writes ∧ (writes ≠ [] → handles ≠ []) := by
  have handle (f : Frame) :
      AtMostOne isHandle [.handle f.command f.payload f.size.toNat (handleAnswer (toPending v))] :=
    atMostOne_singleton ⟨_, _, _, _, rfl⟩
  cases h with
  | badChecksum => exact ⟨[], [], by simp, by decide, atMostOne_nil _, atMostOne_nil _, id⟩
  | filtered => exact ⟨[], [], by simp, by decide, atMostOne_nil _, atMostOne_nil _, id⟩
  | handled f => exact ⟨_, [], by simp, by decide, handle f, atMostOne_nil _, by simp⟩
  | oversizedReply f => exact ⟨_, [], by simp, by decide, handle f, atMostOne_nil _, by simp⟩
  | replied f stuffed =>
    exact ⟨_, [.write stuffed (writeAnswer (setTx stuffed (delivered f v)))], by simp, by decide, handle f,
      atMostOne_singleton ⟨_, _, rfl⟩, by simp⟩
  | replyOverflow f => exact ⟨_, [], by simp, by decide, handle f, atMostOne_nil _, by simp⟩

/-- The callbacks of one POLL: NOW, then READ, HANDLE and WRITE at most once each, in this order (20_memory.md R68). -/
def CallbackOrder (s : State) (e : ErrorCode) (t : State) : Prop :=
  ∃ reads handles writes, t.trace = s.trace ++ .now (nowAnswer s) :: (reads ++ handles ++ writes) ∧ e ≠ .busy ∧
    AtMostOne isRead reads ∧ AtMostOne isHandle handles ∧ AtMostOne isWrite writes ∧
    (handles ≠ [] → reads ≠ []) ∧ (writes ≠ [] → handles ≠ []) ∧ (e = .timeout → reads = [])

/-- An end of POLL before its READ. -/
theorem callbackOrder_of_now {s t : State} {e : ErrorCode} (ht : t.trace = (afterNow s).trace) (hb : e ≠ .busy) :
    CallbackOrder s e t :=
  ⟨[], [], [], by rw [ht]; simp, hb, atMostOne_nil _, atMostOne_nil _, atMostOne_nil _, id, id, fun _ => rfl⟩

/-- An end of POLL after its READ, without a dispatch. -/
theorem callbackOrder_of_read {s t : State} {e : ErrorCode} (max : Nat)
    (ht : t.trace = (afterRead max (afterNow s)).trace) (hb : e ≠ .busy) (he : e ≠ .timeout) : CallbackOrder s e t :=
  ⟨[.read max (readAnswer max (afterNow s))], [], [], by rw [ht]; simp, hb, atMostOne_singleton ⟨_, _, rfl⟩,
    atMostOne_nil _, atMostOne_nil _, by simp, id, fun h => absurd h he⟩

theorem PollEnds.callbackOrder {s t : State} {e : ErrorCode} (h : PollEnds s e t) : CallbackOrder s e t := by
  cases h with
  | expired => exact callbackOrder_of_now rfl (by decide)
  | noRoom receiving => exact callbackOrder_of_now rfl (by decide)
  | nothing idle bound => exact callbackOrder_of_read 1 rfl (by decide) (by decide)
  | discarded idle bound => exact callbackOrder_of_read 1 rfl (by decide) (by decide)
  | begun idle bound => exact callbackOrder_of_read 1 rfl (by decide) (by decide)
  | noProgress receiving bound => exact callbackOrder_of_read s.need.toNat rfl (by decide) (by decide)
  | rejected receiving bound => exact callbackOrder_of_read s.need.toNat rfl (by decide) (by decide)
  | collecting state need intake work receiving bound onward =>
    exact callbackOrder_of_read s.need.toNat rfl (by decide) (by decide)
  | dispatched intake work e t complete bound ends =>
    obtain ⟨handles, writes, htrace, hbusy, hhandles, hwrites, horder⟩ := ends.trace_eq
    refine ⟨[.read s.need.toNat (readAnswer s.need.toNat (afterNow s))], handles, writes, ?_, hbusy,
      atMostOne_singleton ⟨_, _, rfl⟩, hhandles, hwrites, by simp, horder, fun he => absurd he ends.code_ne_timeout⟩
    rw [htrace]
    simp [collected]

/-- Settles O15: the callbacks of the end it came to, then the returned code. -/
theorem pollCallbackOrder : Obligations.PollCallbackOrder := by
  intro s t h
  obtain ⟨e, u, hu, rfl⟩ := exec_poll_ends h
  obtain ⟨reads, handles, writes, htrace, hbusy, ⟨hr1, hr⟩, ⟨hh1, hh⟩, ⟨hw1, hw⟩, hhr, hwh, htimeout⟩ :=
    hu.callbackOrder
  refine ⟨reads, handles, writes, e, ?_, rfl, hbusy, hr1, hr, hh1, hh, hw1, hw, hhr, hwh, htimeout⟩
  rw [returnCode_trace, htrace]
  simp

end Sys2Proof.Machine
end

section
/-! Proofs about the invariants between operations (spec/10_state.md R35): the buffers' ranges, which the lemmas above
keep, and the rules of the session, which no lemma about `tx` or the environment has to speak of. -/

namespace Sys2Proof.Machine

/-- The items of R35 that are about the reception in progress, the table and the host's duties. -/
structure Session (s : State) : Prop where
  started : s.initialised = true
  idle : s.state = .pending → s.timerStart = 0 ∧ s.intakeLen = 0 ∧ s.need = 0
  header : s.state = .headerReceiving → s.workLen ≤ 2 ∧ s.need.toNat = 3 - s.workLen
  payload : s.state = .completeReceiving →
    ∃ size : Byte, workByte s 2 = some size ∧ size.toNat ≤ 252 ∧ 3 ≤ s.workLen ∧
      s.workLen ≤ 3 + size.toNat ∧ s.need.toNat = 3 + size.toNat + 1 - s.workLen
  held : s.intakeLen ≤ 1 ∧ (s.intakeLen = 1 → s.intake.read 0 = some Config.esc)
  table : s.crcTable = buildTable Config.poly
  duty : ∀ w ∈ s.port, lawfulWord w = true

theorem invariants_iff (s : State) : Invariants s ↔ BuffersInRange s ∧ Session s :=
  ⟨fun h => ⟨{ h with }, { h with }⟩, fun ⟨hb, hs⟩ => { hb, hs with }⟩

/-- The registers that the rules of the session speak of. -/
def sessionRegisters (s : State) :=
  ((s.initialised, s.state, s.need, s.timerStart), (s.intake, s.intakeLen), (s.work, s.workLen), s.crcTable, s.port)

theorem Session.of_registers_eq {s t : State} (h : Session s) (e : sessionRegisters t = sessionRegisters s) :
    Session t := by
  cases s
  cases t
  simp only [sessionRegisters, Prod.mk.injEq] at e
  obtain ⟨⟨rfl, rfl, rfl, rfl⟩, ⟨rfl, rfl⟩, ⟨rfl, rfl⟩, rfl, rfl⟩ := e
  exact { h with }

/-- An update of `tx`, of the environment or of the observables keeps the invariants where `tx` keeps its range. -/
theorem Invariants.of_registers_eq {s t : State} (h : Invariants s) (hb : BuffersInRange t)
    (e : sessionRegisters t = sessionRegisters s) : Invariants t :=
  (invariants_iff t).mpr ⟨hb, ((invariants_iff s).mp h).2.of_registers_eq e⟩

theorem Invariants.inRange {s : State} (h : Invariants s) : BuffersInRange s := ((invariants_iff s).mp h).1

theorem Invariants.session {s : State} (h : Invariants s) : Session s := ((invariants_iff s).mp h).2

/-- Item 1: a context in `Pending` with the timer inactive and nothing withheld meets the rules of the session. -/
theorem Session.of_idle {s t : State} (h : Session s) (hstate : t.state = .pending) (htimer : t.timerStart = 0)
    (hneed : t.need = 0) (hintake : t.intakeLen = 0) (keeps : configuration t = configuration s) : Session t := by
  simp only [configuration, Prod.mk.injEq] at keeps
  obtain ⟨htable, -, -, -, -, -, hport, hinit⟩ := keeps
  constructor
  case started => exact hinit ▸ h.started
  case idle => exact fun _ => ⟨htimer, hintake, hneed⟩
  case header => exact fun hs => by rw [hstate] at hs; cases hs
  case payload => exact fun hs => by rw [hstate] at hs; cases hs
  case held => exact ⟨by omega, fun h1 => by omega⟩
  case table => exact htable ▸ h.table
  case duty => exact hport ▸ h.duty

theorem abort_session {s : State} (h : Session s) : Session (abort s) := h.of_idle rfl rfl rfl rfl rfl

/-- Settles O54: INIT empties what the invariants speak of, and builds the table. -/
theorem initEstablishesTheInvariant : Obligations.InitEstablishesTheInvariant := by
  intro s t hport h
  cases h
  refine (invariants_iff _).mpr ⟨(initCore_inRange s).of_buffers_eq rfl, ?_⟩
  constructor
  case started => rfl
  case idle => exact fun _ => ⟨rfl, rfl, rfl⟩
  case header => exact fun hs => by cases hs
  case payload => exact fun hs => by cases hs
  case held => exact ⟨Nat.zero_le _, fun h1 => by cases h1⟩
  case table => rfl
  case duty => exact hport

/-- Settles O53: reset is the context that INIT leaves. -/
theorem resetMeetsTheInvariant : Obligations.ResetMeetsTheInvariant := by
  have h : Invariants State.reset := initEstablishesTheInvariant State.reset State.reset (by simp [State.reset]) rfl
  exact ⟨h, h.inRange⟩

/-! ### What RX.READ_DESTUFF asks for, and what it appends -/

/-- Item 5: the intake holds nothing, or one escape byte. -/
theorem Session.held_cases {s : State} {held : List Byte} (h : Session s) (hi : s.intake = Memory.ofBytes held)
    (hil : s.intakeLen = held.length) : held = [] ∨ held = [Config.esc] := by
  obtain ⟨hle, hesc⟩ := h.held
  match held with
  | [] => exact .inl rfl
  | [b] =>
    have hb := hesc (by simpa using hil)
    rw [hi] at hb
    exact .inr (by simpa using hb)
  | _ :: _ :: _ => simp only [List.length_cons] at hil; omega

/-- R58: a withheld byte and the bytes asked for are at most 254. -/
theorem Session.asked_le {s : State} (h : Session s) : s.intakeLen + s.need.toNat ≤ 254 := by
  have hheld := h.held.1
  cases hs : s.state with
  | pending =>
    obtain ⟨-, hi, hn⟩ := h.idle hs
    simp [hi, hn]
  | headerReceiving =>
    obtain ⟨-, hn⟩ := h.header hs
    omega
  | completeReceiving =>
    obtain ⟨size, -, hsize, hlen, -, hn⟩ := h.payload hs
    omega

/-- R158, R159: what is decoded and what is withheld are no more bytes than were read: a byte withheld before needs its
marker. -/
theorem decoded_length_le {held new body decoded : List Byte} {hold : Bool} {room : Nat}
    (hheld : held = [] ∨ held = [Config.esc]) (hnew : new ≠ []) (hsplit : splitHeld (held ++ new) = (body, hold))
    (hok : destuffBytes body room = .ok decoded) : decoded.length + (if hold then 1 else 0) ≤ new.length := by
  have hbody : body.length + (if hold then 1 else 0) = held.length + new.length := by
    obtain ⟨b, hb, hc⟩ | ⟨-, hc⟩ := splitHeld_cases (held ++ new) <;> rw [hc] at hsplit <;> cases hsplit
    · rw [← List.length_append, hb]
      simp
    · simp
  obtain rfl | rfl := hheld
  · have hle := (destuffBytes_length_le body hok).1
    simp only [List.length_nil] at hbody
    omega
  · obtain ⟨rest, rfl⟩ : ∃ rest, body = Config.esc :: rest := by
      obtain ⟨n, ns, rfl⟩ := List.exists_cons_of_ne_nil hnew
      obtain ⟨b, hb, hc⟩ | ⟨-, hc⟩ := splitHeld_cases ([Config.esc] ++ n :: ns) <;> rw [hc] at hsplit <;> cases hsplit
      · cases body with
        | nil => simp at hb
        | cons x xs =>
          obtain rfl : Config.esc = x := (List.cons.inj hb).1
          exact ⟨xs, rfl⟩
      · exact ⟨n :: ns, rfl⟩
    have hle := destuffBytes_esc_length hok
    simp only [List.length_cons, List.length_nil] at hbody
    omega

/-- R155 to R159 between operations: progress appends to `work` no more bytes than were missing, and one fewer where it
withholds one. -/
theorem rxReadDestuff_progress {s t : State} (hb : BuffersInRange s) (hs : Session s)
    (h : rxReadDestuff s = .next (.progress, t)) :
    ∃ (ws decoded : List Byte) (hold : Bool), s.work = Memory.ofBytes ws ∧ s.workLen = ws.length ∧
      decoded.length + (if hold then 1 else 0) ≤ s.need.toNat ∧
      t = keepIntake hold (holdBytes (ws ++ decoded) (afterRead s.need.toNat s)) := by
  obtain ⟨held, ws, hi, hil, hw, hwl⟩ := hb.sequences
  obtain ⟨-, hr, -⟩ | ⟨-, hle, ⟨-, hr, -⟩ | ⟨hr, -⟩ | ⟨body, hold, decoded, hnew, -, hsplit, hok, -, rfl⟩⟩ :=
    rxReadDestuff_next_cases hi hil hw hwl h
  · cases hr
  · cases hr
  · cases hr
  · have hdec := decoded_length_le (hs.held_cases hi hil) hnew hsplit hok
    refine ⟨ws, decoded, hold, hw, hwl, by omega, ?_⟩
    rw [holdBytes_eq]
    cases hold <;> rfl

/-- The rules of the session after an answer of RX.READ_DESTUFF without progress. -/
theorem rxReadDestuff_session {s t : State} {r : ReadResult} (hs : Session s) (h : rxReadDestuff s = .next (r, t))
    (hr : r ≠ .progress) : Session t := by
  have hread : Session (afterRead s.need.toNat s) := hs.of_registers_eq rfl
  obtain ⟨-, rfl⟩ | ⟨-, ⟨-, rfl⟩ | ⟨-, rfl⟩ | ⟨rfl, -⟩⟩ := rxReadDestuff_ends h
  · exact abort_session hs
  · exact hread
  · exact abort_session hread
  · exact absurd rfl hr

theorem keepIntake_held (hold : Bool) (s : State) :
    (keepIntake hold s).intakeLen ≤ 1 ∧
      ((keepIntake hold s).intakeLen = 1 → (keepIntake hold s).intake.read 0 = some Config.esc) := by
  cases hold
  · exact ⟨Nat.zero_le _, fun h => by cases h⟩
  · exact ⟨Nat.le_refl _, fun _ => rfl⟩

/-- Items 4 and 5 for a header that has just been completed, or a payload that waits for more. -/
theorem Session.of_waiting {s t : State} {ws : List Byte} {size : Byte} (h : Session s)
    (keeps : configuration t = configuration s) (hstate : t.state = .completeReceiving)
    (hw : t.work = Memory.ofBytes ws) (hwl : t.workLen = ws.length) (hsize : ws[2]? = some size)
    (hle : size.toNat ≤ 252) (hmore : ws.length < 3 + size.toNat + 1)
    (hneed : t.need = BitVec.ofNat 8 (3 + size.toNat + 1 - ws.length))
    (hheld : t.intakeLen ≤ 1 ∧ (t.intakeLen = 1 → t.intake.read 0 = some Config.esc)) : Session t := by
  simp only [configuration, Prod.mk.injEq] at keeps
  obtain ⟨htable, -, -, -, -, -, hport, hinit⟩ := keeps
  have hlen : 3 ≤ ws.length := by
    have := (List.getElem?_eq_some_iff.mp hsize).1
    omega
  constructor
  case started => exact hinit ▸ h.started
  case idle => exact fun hs => by rw [hstate] at hs; cases hs
  case header => exact fun hs => by rw [hstate] at hs; cases hs
  case payload =>
    refine fun _ => ⟨size, by rw [workByte_ofBytes hw hwl, hsize], hle, by omega, by omega, ?_⟩
    rw [hneed, BitVec.toNat_ofNat, hwl]
    omega
  case held => exact hheld
  case table => exact htable ▸ h.table
  case duty => exact hport ▸ h.duty

/-- Item 3: RX.HEADER, with at most three bytes in `work`. -/
theorem rxHeader_session {s t : State} {e : ErrorCode} (hb : BuffersInRange s) (hs : Session s)
    (hstate : s.state = .headerReceiving) (h : rxHeader s = .next (e, t)) : Session t := by
  obtain ⟨r, u, hread, hstep⟩ := (andThen_next_iff _ _ _ _).mp h
  obtain ⟨rfl, -, rfl⟩ | ⟨rfl, rfl⟩ | ⟨rfl, hprogress⟩ := headerStep_next_cases hstep
  · exact rxReadDestuff_session hs hread (by decide)
  · exact rxReadDestuff_session hs hread (by simp)
  obtain ⟨ws, decoded, hold, hw, hwl, hdec, rfl⟩ := rxReadDestuff_progress hb hs hread
  obtain ⟨hshort, hneed⟩ := hs.header hstate
  have hlen : (ws ++ decoded).length ≤ 3 := by rw [List.length_append]; omega
  simp only [keepIntake_workLen, holdBytes_workLen] at hprogress
  obtain ⟨hlt, -, rfl⟩ | ⟨hge, size, hsize, ⟨-, -, rfl⟩ | ⟨hle, -, rfl⟩⟩ := hprogress
  · constructor
    case started => simpa using hs.started
    case idle => exact fun hp => by simp [hstate] at hp
    case header =>
      refine fun _ => ⟨?_, ?_⟩
      · simpa only [setNeed_workLen, keepIntake_workLen, holdBytes_workLen] using Nat.le_of_lt_succ hlt
      · simp only [setNeed_need, setNeed_workLen, keepIntake_workLen, holdBytes_workLen, BitVec.toNat_ofNat]
        omega
    case payload => exact fun hp => by simp [hstate] at hp
    case held => exact keepIntake_held hold _
    case table => simpa using hs.table
    case duty => simpa using hs.duty
  · exact hs.of_idle rfl rfl rfl rfl (by simp [configuration])
  · rw [workByte_ofBytes (ws := ws ++ decoded) (by simp) (by simp)] at hsize
    refine Session.of_waiting (ws := ws ++ decoded) hs (by simp [configuration]) rfl (by simp) (by simp) hsize hle
      (by omega) ?_ (keepIntake_held hold _)
    rw [setNeed_need]
    congr 1
    omega

/-- Items 1 and 6: every end of RX.DISPATCH leaves `Pending` as the rules say, where no byte is withheld. -/
theorem DispatchEnds.session {s v t : State} {e : ErrorCode} (h : DispatchEnds v e t) (hs : Session s)
    (keeps : configuration v = configuration s) (hheld : v.intakeLen = 0) : Session t := by
  have hconf := h.configuration_eq.trans keeps
  cases h with
  | badChecksum => exact hs.of_idle rfl rfl rfl rfl hconf
  | filtered => exact hs.of_idle rfl rfl rfl hheld hconf
  | handled f => exact hs.of_idle rfl rfl rfl hheld hconf
  | oversizedReply f => exact hs.of_idle rfl rfl rfl hheld hconf
  | replied f stuffed => exact hs.of_idle rfl rfl rfl hheld hconf
  | replyOverflow f => exact hs.of_idle rfl rfl rfl hheld hconf

/-- Item 4: RX.COMPLETE, with at most the frame in `work`, and the frame whole only if no byte is withheld. -/
theorem rxComplete_session {s t : State} {e : ErrorCode} (hb : BuffersInRange s) (hs : Session s)
    (hstate : s.state = .completeReceiving) (h : rxComplete s = .next (e, t)) : Session t := by
  obtain ⟨r, u, hread, hstep⟩ := (andThen_next_iff _ _ _ _).mp h
  obtain ⟨rfl, -, rfl⟩ | ⟨rfl, rfl⟩ | ⟨rfl, size, hsize, hprogress⟩ := completeStep_next_cases hstep
  · exact rxReadDestuff_session hs hread (by decide)
  · exact rxReadDestuff_session hs hread (by simp)
  obtain ⟨ws, decoded, hold, hw, hwl, hdec, rfl⟩ := rxReadDestuff_progress hb hs hread
  obtain ⟨size', hsize', hle, hlen, hmore, hneed⟩ := hs.payload hstate
  rw [workByte_ofBytes hw hwl] at hsize'
  rw [workByte_ofBytes (ws := ws ++ decoded) (by simp) (by simp), List.getElem?_append_left (by omega), hsize',
    Option.some.injEq] at hsize
  subst hsize
  have hlenEq : (ws ++ decoded).length = ws.length + decoded.length := List.length_append
  simp only [keepIntake_workLen, holdBytes_workLen] at hprogress
  obtain ⟨hlt, -, rfl⟩ | ⟨hge, hdispatch⟩ := hprogress
  · refine Session.of_waiting (ws := ws ++ decoded) (size := size') hs (by simp [configuration]) ?_ (by simp)
      (by simp) ?_ hle hlt rfl (keepIntake_held hold _)
    · simpa using hstate
    · rw [List.getElem?_append_left (by omega), hsize']
  · obtain rfl : hold = false := by
      cases hold with
      | false => rfl
      | true => simp only [if_true] at hdec; omega
    exact (rxDispatch_ends hdispatch).session hs rfl rfl

theorem rxPending_session {now : U32} {s t : State} {e : ErrorCode} (hs : Session s)
    (h : rxPending now s = .next (e, t)) : Session t := by
  have hread : Session (afterRead 1 s) := hs.of_registers_eq rfl
  obtain ⟨-, ⟨-, rfl⟩ | ⟨-, rfl⟩ | ⟨-, rfl⟩⟩ := rxPending_next_cases h
  · exact hread
  · constructor
    case started => exact hs.started
    case idle => exact fun hp => by cases hp
    case header => exact fun _ => ⟨Nat.zero_le _, rfl⟩
    case payload => exact fun hp => by cases hp
    case held => exact ⟨Nat.zero_le _, fun h1 => by cases h1⟩
    case table => exact hs.table
    case duty => exact hs.duty
  · exact hread

theorem pollCore_session {s t : State} {e : ErrorCode} (hb : BuffersInRange s) (hs : Session s)
    (h : pollCore s = .next (e, t)) : Session t := by
  have hbn : BuffersInRange (afterNow s) := hb.of_buffers_eq rfl
  have hsn : Session (afterNow s) := hs.of_registers_eq rfl
  unfold pollCore at h
  obtain ⟨-, hc⟩ | ⟨-, ⟨-, hc⟩ | ⟨hstate, hc⟩ | ⟨hstate, hc⟩⟩ := pollWith_cases (nowAnswer s) (afterNow s) <;>
    rw [hc] at h
  · cases h
    exact abort_session hsn
  · exact rxPending_session hsn h
  · exact rxHeader_session hbn hsn hstate h
  · exact rxComplete_session hbn hsn hstate h

/-! ### What the host and the link do -/

theorem hostPoll_invariants {s t : State} (h : Invariants s) (hp : hostPoll s = .next t) : Invariants t := by
  obtain ⟨-, e, u, hu, rfl⟩ := (publicReturn_next_iff _ _ _).mp hp
  refine (invariants_iff _).mpr ⟨(pollCore_inRange h.inRange hu).of_buffers_eq rfl, ?_⟩
  exact (pollCore_session h.inRange h.session hu).of_registers_eq rfl

/-- The link's bytes and counts are no registers. -/
theorem offerByte_invariants (b : Byte) {s : State} (h : Invariants s) : Invariants (offerByte b s) :=
  h.of_registers_eq (h.inRange.of_buffers_eq rfl) rfl

theorem meetBytes_invariants {bs : List Byte} {s t : State} (h : Invariants s) (hm : meetBytes bs s = .next t) :
    Invariants t :=
  meetBytes_keeps Invariants (fun b _ => offerByte_invariants b) (fun _ _ => hostPoll_invariants) bs s t h hm

/-- R189: CALL writes no register of the session. -/
theorem callCore_registers {address command : Byte} {size : Nat} {data : List Byte} {s t : State} {e : ErrorCode}
    (h : callCore address command size data s = .next (e, t)) : sessionRegisters t = sessionRegisters s := by
  obtain ⟨-, ⟨-, -, rfl⟩ | ⟨-, -, -, rfl⟩ | ⟨-, -, ht⟩⟩ := callCore_next_cases h
  · rfl
  · rfl
  · obtain ⟨-, -, rfl⟩ | ⟨-, -, rfl⟩ := transmit_next_cases ht
    · rfl
    · rfl

/-- What the operations of lawful words are: INIT, POLL, CALL, bytes met on the link, or a returned code. -/
inductive LawfulOperation : Instr → Prop
  | init : LawfulOperation .init
  | poll : LawfulOperation .poll
  | call (address command : Byte) (size : Nat) (data : List Byte) : LawfulOperation (.call address command size data)
  | meets (i : Instr) (bytes : List Byte) (h : ∀ s, exec i s = meetBytes bytes s) : LawfulOperation i
  | returns (i : Instr) (e : ErrorCode) (h : ∀ s, exec i s = .next (returnCode e s)) : LawfulOperation i

theorem lawfulOperation_of_decodeOp {sel : BitVec 2} {address command : Byte} {size : Nat} {data : List Byte}
    {i : Instr} (h : decodeOp sel address command size data = .ok i) : LawfulOperation i := by
  unfold decodeOp at h
  split_ifs at h <;> cases h
  · exact .init
  · exact .poll
  · exact .call address command size data

theorem lawfulOperation_of_decodeWire {bytes : List Byte} {i : Instr} (h : decodeWire bytes = .ok i) :
    LawfulOperation i := by
  unfold decodeWire at h
  split at h
  · split_ifs at h <;> cases h
    · exact .meets _ [Config.preamble] fun _ => rfl
    · exact .meets _ [_] fun _ => rfl
  · split_ifs at h <;> cases h
    · exact .meets _ [Config.esc, Config.markA] fun _ => rfl
    · exact .meets _ [Config.esc, Config.markB] fun _ => rfl
    · exact .meets _ [Config.esc, _] fun _ => rfl
  · cases h

theorem lawfulOperation_of_decodeEncoded {bytes : List Byte} {i : Instr} (h : decodeEncoded bytes = .ok i) :
    LawfulOperation i := by
  obtain ⟨f, rfl⟩ : ∃ f, i = .enc f := by
    unfold decodeEncoded at h
    split at h
    · cases h
    · split_ifs at h
      split at h
      · cases h
      · split at h <;> cases h
        exact ⟨_, rfl⟩
  exact .meets _ (encodedBytes f) fun _ => rfl

theorem lawfulOperation_of_decodeResult {code : Byte} {i : Instr} (h : decodeResult code = .ok i) :
    LawfulOperation i := by
  unfold decodeResult at h
  split_ifs at h <;> cases h <;> exact .returns _ _ fun _ => rfl

theorem lawfulOperation_of_decode {w : PortWord} {i : Instr} (hw : lawfulWord w = true) (h : decode w = .ok i) :
    LawfulOperation i := by
  cases w with
  | op sel address command size data => exact lawfulOperation_of_decodeOp h
  | wire bytes => exact lawfulOperation_of_decodeWire h
  | frame bytes => cases hw
  | encoded bytes => exact lawfulOperation_of_decodeEncoded h
  | result code => exact lawfulOperation_of_decodeResult h
  | stateCode code => cases hw

theorem LawfulOperation.invariants {i : Instr} (hi : LawfulOperation i) {s t : State} (h : Invariants s)
    (he : exec i s = .next t) : Invariants t := by
  have hb := exec_inRange i h.inRange he
  cases hi with
  | init => exact initEstablishesTheInvariant s t h.duty he
  | poll => exact hostPoll_invariants h he
  | call address command size data =>
    obtain ⟨-, e, u, hu, rfl⟩ := (publicReturn_next_iff _ _ _).mp he
    have hregs := callCore_registers hu
    exact h.of_registers_eq hb hregs
  | meets i bytes hm => exact meetBytes_invariants h (hm s ▸ he)
  | returns i e hr =>
    rw [hr s] at he
    cases he
    exact h.of_registers_eq hb rfl

/-- Taking the host's next word keeps the invariants, and the word is lawful. -/
theorem Invariants.fetched {s : State} {w : PortWord} {rest : List PortWord} (h : Invariants s)
    (hport : s.port = w :: rest) : lawfulWord w = true ∧ Invariants { s with port := rest } := by
  have hduty := h.duty
  rw [hport, List.forall_mem_cons] at hduty
  exact ⟨hduty.1, { h with duty := hduty.2 }⟩

/-- Settles O55: a lawful word is one of five kinds of operation, or bytes of the link. -/
theorem stepKeepsTheInvariant : Obligations.StepKeepsTheInvariant := by
  intro s t h hstep
  obtain ⟨-, rfl⟩ | ⟨w, rest, i, hport, hdec, hi⟩ | ⟨w, rest, x, hport, -, hu⟩ := step_next_cases hstep
  · exact h
  · obtain ⟨hw, hrest⟩ := h.fetched hport
    exact (lawfulOperation_of_decode hw hdec).invariants hrest hi
  · obtain ⟨hw, hrest⟩ := h.fetched hport
    obtain ⟨bytes, -, hm⟩ | ⟨bytes, rfl, -⟩ := meetUndecoded_next_cases hu
    · exact meetBytes_invariants hrest hm
    · cases hw

/-- Settles O57: what is withheld and what is asked for are at most 254 bytes. -/
theorem intakeNeverOverflowsAtTheDefault : Obligations.IntakeNeverOverflowsAtTheDefault := by
  intro s t h hcap he hout
  have hasked := h.session.asked_le
  obtain ⟨r, u, hr, rfl⟩ := (hand_next_iff _ _ _).mp he
  obtain rfl : r = .aborted .overflow := by
    rw [handOut_out] at hout
    cases r <;> cases hout
    rfl
  obtain ⟨held, ws, hi, hil, hw, hwl⟩ := h.inRange.sequences
  obtain ⟨hfull, -, -⟩ | ⟨-, -, ⟨-, hcode, -⟩ | ⟨hcode, -⟩ | ⟨_, _, _, -, -, -, -, hcode, -⟩⟩ :=
    rxReadDestuff_next_cases hi hil hw hwl hr
  · omega
  · cases hcode
  · cases hcode
  · cases hcode

end Sys2Proof.Machine
end

section
/-! Proofs that no operation of a context between operations faults, and that POLL is refused only where the platform
breaks its contract (spec/10_state.md R27, R35; spec/45_system_ops.md R196, R199). -/

namespace Sys2Proof.Machine

/-- The operation does not fault, and it is refused only if the platform has broken its contract. -/
def RefusedOnlyIf (broken : Prop) {α : Type} : Host.Outcome α Fault Refusal → Prop
  | .next _ => True
  | .fault _ => False
  | .refused _ => broken

theorem RefusedOnlyIf.ne_fault {broken : Prop} {α : Type} {r : Host.Outcome α Fault Refusal}
    (h : RefusedOnlyIf broken r) (x : Fault) : r ≠ .fault x := by
  rintro rfl
  exact h

theorem RefusedOnlyIf.answers {broken : Prop} {α : Type} {r : Host.Outcome α Fault Refusal}
    (h : RefusedOnlyIf broken r) (hb : ¬ broken) : ∃ a, r = .next a := by
  cases r with
  | next a => exact ⟨a, rfl⟩
  | fault x => exact h.elim
  | refused x => exact absurd h hb

theorem RefusedOnlyIf.andThen {broken : Prop} {α β : Type} {r : Res α} {k : α → State → Res β}
    (h : RefusedOnlyIf broken r) (hk : ∀ a s, r = .next (a, s) → RefusedOnlyIf broken (k a s)) :
    RefusedOnlyIf broken (andThen r k) := by
  rcases r with ⟨a, s⟩ | x | x
  · exact hk a s rfl
  · exact h.elim
  · exact h

/-! ### The platform's contract -/

/-- R196: a listed count within the bound, or a free one, keeps READ's contract. -/
theorem readAnswer_kept {max : Nat} {s : State} (h : ∀ n ∈ s.counts.head?, (s.rx.take n).length ≤ max) :
    (readAnswer max s).length ≤ max := by
  cases hc : s.counts with
  | nil => exact readAnswer_free hc
  | cons n ns =>
    rw [readAnswer_listed hc]
    exact h n (by rw [hc]; rfl)

/-- R199: a listed reply that is as long as it says, or a free one, keeps HANDLE's contract. -/
theorem handleAnswer_kept {s : State} (h : ∀ r ∈ s.replies.head?, replyKept r) : replyKept (handleAnswer s) := by
  unfold handleAnswer
  split
  case h_1 r rs hr => exact h r (by rw [hr]; rfl)
  case h_2 =>
    split
    · exact fun d hd => by cases hd
    · exact fun d hd => by cases hd; exact Nat.le_refl _

/-! ### The callbacks and the dispatch -/

theorem callRead_refusedOnlyIf {max : Nat} {s : State} {broken : Prop}
    (h : ¬ broken → (readAnswer max s).length ≤ max) : RefusedOnlyIf broken (callRead max s) := by
  by_cases hb : broken
  · unfold callRead
    split_ifs
    · exact hb
    · exact trivial
  · rw [callRead_of_le (h hb)]
    exact trivial

/-- The size byte and as many bytes as it asks for are a frame, and what follows it. -/
theorem exists_frame_of_length {ws : List Byte} {size : Byte} (hsize : ws[2]? = some size)
    (hlen : size.toNat + 4 ≤ ws.length) :
    ∃ f rest, ws = frameBytes f ++ rest ∧ f.size = size ∧ f.payload.length = f.size.toNat := by
  match ws with
  | a :: c :: z :: tail =>
    obtain rfl : z = size := by simpa using hsize
    simp only [List.length_cons] at hlen
    refine ⟨⟨a, c, z, tail.take z.toNat, tail[z.toNat]⟩, tail.drop (z.toNat + 1), ?_, rfl, ?_⟩
    · simp [frameBytes]
    · rw [List.length_take]
      exact Nat.min_eq_left (by omega)

/-- R164: RX.REPLY needs the two header bytes, and a reply as long as it says. -/
theorem rxReply_refusedOnlyIf {reply : Reply} {s : State} {ws : List Byte} {broken : Prop}
    (hw : s.work = Memory.ofBytes ws) (hwl : s.workLen = ws.length) (hlen : 2 ≤ ws.length)
    (h : ¬ broken → reply.size ≤ (replyData reply).length) : RefusedOnlyIf broken (rxReply reply s) := by
  have h0 : workByte s 0 = some ws[0] := by rw [workByte_ofBytes hw hwl]; simp
  have h1 : workByte s 1 = some ws[1] := by rw [workByte_ofBytes hw hwl]; simp
  simp only [rxReply, h0, h1]
  obtain ⟨hshort, hc⟩ | ⟨-, ⟨-, hc⟩ | ⟨-, -, hc⟩ | ⟨-, -, hc⟩⟩ := callCore_cases
    (replyHeaderOf s.replyHeader ws[0] ws[1] s.ownAddress).1 (replyHeaderOf s.replyHeader ws[0] ws[1] s.ownAddress).2
    reply.size (replyData reply) s <;> rw [hc]
  · by_contra hb
    exact absurd (h hb) (by omega)
  · exact trivial
  · exact trivial
  · exact trivial

/-- R162: RX.DISPATCH needs a whole frame in `work`. -/
theorem rxDispatch_refusedOnlyIf {s : State} {ws : List Byte} {size : Byte} {broken : Prop}
    (hw : s.work = Memory.ofBytes ws) (hwl : s.workLen = ws.length) (hsize : ws[2]? = some size)
    (hlen : size.toNat + 4 ≤ ws.length) (h : ¬ broken → replyKept (handleAnswer s)) :
    RefusedOnlyIf broken (rxDispatch s) := by
  obtain ⟨f, rest, rfl, -, hf⟩ := exists_frame_of_length hsize hlen
  simp only [rxDispatch, receivedFrame_ofBytes hw hwl hf]
  split_ifs with hcheck
  · have hanswer : handleAnswer (toPending s) = handleAnswer s := rfl
    simp only [deliver, hanswer, afterHandler]
    split_ifs with haccepts hreply
    · refine rxReply_refusedOnlyIf (ws := frameBytes f ++ rest) hw hwl (by simp; omega) fun hb => ?_
      obtain ⟨d, hd⟩ : ∃ d, (handleAnswer s).data = some d := by
        simp only [nonEmptyReply, Bool.and_eq_true] at hreply
        exact Option.isSome_iff_exists.mp hreply.1
      simpa [replyData, hd] using h hb d hd
    · exact trivial
    · exact trivial
  · exact trivial

/-! ### POLL -/

/-- R155 to R159 where the buffers hold byte sequences: only READ can be refused, and nothing faults. -/
theorem rxReadDestuff_refusedOnlyIf {s : State} {broken : Prop} (hb : BuffersInRange s)
    (h : ¬ broken → (readAnswer s.need.toNat s).length ≤ s.need.toNat) : RefusedOnlyIf broken (rxReadDestuff s) := by
  obtain ⟨held, ws, hi, hil, hw, hwl⟩ := hb.sequences
  unfold rxReadDestuff
  split_ifs with hfull
  · exact trivial
  refine (callRead_refusedOnlyIf h).andThen fun new u hu => ?_
  obtain ⟨-, rfl, -⟩ := (callRead_next_iff _ _ _ _).mp hu
  cases new with
  | nil => exact trivial
  | cons b bs =>
    have hbytes : intakeBytes (appendIntake (b :: bs) (afterRead s.need.toNat s)) = some (held ++ b :: bs) :=
      intakeBytes_ofBytes (by simp [hi, hil]) (by simp [hil])
    simp only [takeNew, destuffIntake, hbytes]
    split_ifs with hstray
    · exact trivial
    obtain ⟨-, hc⟩ | ⟨_, -, hc⟩ | ⟨_, -, -, hc⟩ := destuffBody_cases (splitHeld (held ++ b :: bs)).1
      (splitHeld (held ++ b :: bs)).2 (appendIntake (b :: bs) (afterRead s.need.toNat s)) <;> rw [hc] <;> exact trivial

/-- R160: the size byte stands in `work` when three bytes do. -/
theorem headerStep_refusedOnlyIf {r : ReadResult} {s : State} {broken : Prop} (hb : BuffersInRange s) :
    RefusedOnlyIf broken (headerStep r s) := by
  obtain ⟨-, ws, -, -, hw, hwl⟩ := hb.sequences
  cases r with
  | noProgress => exact trivial
  | aborted e => exact trivial
  | progress =>
    simp only [headerStep, Config.headerSize]
    split_ifs with hdone
    · have hsize : workByte (setNeed (3 - s.workLen) s) 2 = some (ws[2]'(by omega)) := by
        rw [workByte_ofBytes (s := setNeed _ s) hw hwl]
        exact List.getElem?_eq_getElem _
      simp only [headerDone, hsize]
      split_ifs <;> exact trivial
    · exact trivial

/-- R161: with the size byte in `work`, what is missing is known, and nothing is missing of a whole frame. -/
theorem completeStep_refusedOnlyIf {s : State} {ws : List Byte} {size : Byte} {broken : Prop}
    (hw : s.work = Memory.ofBytes ws) (hwl : s.workLen = ws.length) (hsize : ws[2]? = some size)
    (h : ¬ broken → replyKept (handleAnswer s)) : RefusedOnlyIf broken (completeStep .progress s) := by
  have hbyte : workByte s 2 = some size := by rw [workByte_ofBytes hw hwl, hsize]
  simp only [completeStep, hbyte, Config.headerSize, Config.crcSize]
  split_ifs with hmissing
  · exact trivial
  · exact rxDispatch_refusedOnlyIf (s := setNeed _ s) hw hwl hsize (by omega) h

theorem pollCore_refusedOnlyIf {s : State} (h : Invariants s) : RefusedOnlyIf (¬ platformKept s) (pollCore s) := by
  have hb : BuffersInRange (afterNow s) := h.inRange.of_buffers_eq rfl
  have hs : Session (afterNow s) := h.session.of_registers_eq rfl
  have hread (max : Nat) (hmax : readBound s = max) :
      ¬ ¬ platformKept s → (readAnswer max (afterNow s)).length ≤ max :=
    fun hkept => readAnswer_kept (hmax ▸ (not_not.mp hkept).1)
  have hreply (u : State) (hu : u.replies = s.replies) : ¬ ¬ platformKept s → replyKept (handleAnswer u) :=
    fun hkept => handleAnswer_kept (hu ▸ (not_not.mp hkept).2)
  unfold pollCore
  obtain ⟨-, hc⟩ | ⟨-, ⟨hstate, hc⟩ | ⟨hstate, hc⟩ | ⟨hstate, hc⟩⟩ := pollWith_cases (nowAnswer s) (afterNow s) <;>
    rw [hc]
  · exact trivial
  · refine (callRead_refusedOnlyIf (hread 1 ?_)).andThen fun new u hu => ?_
    · simp only [readBound, show s.state = .pending from hstate]
    · obtain ⟨-, hk⟩ | ⟨_, -, hk⟩ | ⟨_, _, -, -, hk⟩ := classifyFirst_cases (nowAnswer s) new u <;> rw [hk] <;>
        exact trivial
  · refine (rxReadDestuff_refusedOnlyIf hb (hread _ ?_)).andThen fun r u hu => ?_
    · simp only [readBound, show s.state = .headerReceiving from hstate]; rfl
    · exact headerStep_refusedOnlyIf (rxReadDestuff_inRange hb hu)
  · refine (rxReadDestuff_refusedOnlyIf hb (hread _ ?_)).andThen fun r u hu => ?_
    · simp only [readBound, show s.state = .completeReceiving from hstate]; rfl
    cases r with
    | noProgress => exact trivial
    | aborted e => exact trivial
    | progress =>
      obtain ⟨ws, decoded, hold, hw, hwl, hdec, rfl⟩ := rxReadDestuff_progress hb hs hu
      obtain ⟨size, hsize, hle, hlen, hmore, hneed⟩ := hs.payload hstate
      rw [workByte_ofBytes hw hwl] at hsize
      refine completeStep_refusedOnlyIf (ws := ws ++ decoded) (size := size) (by simp) (by simp) ?_ (hreply _ (by simp))
      rw [List.getElem?_append_left (by omega), hsize]

/-- Settles O13: with the contract kept POLL is not refused, and the invariants hold of its answer. -/
theorem pollCompletesUnderTheContract : Obligations.PollCompletesUnderTheContract := by
  intro s h hkept
  obtain ⟨⟨e, u⟩, hu⟩ := (pollCore_refusedOnlyIf h).answers (not_not.mpr hkept)
  have hp : exec .poll s = .next (returnCode e u) := publicReturn_of_next h.started hu
  exact ⟨returnCode e u, hp, hostPoll_invariants h hp⟩

/-! ### The step -/

theorem publicReturn_ne_fault {r : Res ErrorCode} {x : Fault} (s : State) (h : r ≠ .fault x) :
    publicReturn s r ≠ .fault x := by
  unfold publicReturn
  split_ifs
  · rcases r with ⟨e, u⟩ | y | y
    · exact fun h' => by cases h'
    · exact fun h' => h (by cases h'; rfl)
    · exact fun h' => by cases h'
  · exact fun h' => by cases h'

theorem hostPoll_ne_fault {s : State} (h : Invariants s) (x : Fault) : hostPoll s ≠ .fault x :=
  publicReturn_ne_fault s ((pollCore_refusedOnlyIf h).ne_fault x)

theorem meetByte_ne_fault {s : State} (h : Invariants s) (b : Byte) (x : Fault) : meetByte b s ≠ .fault x := by
  have hoffer := offerByte_invariants b h
  unfold meetByte
  cases hp : hostPoll (offerByte b s) with
  | next t =>
    simp only
    split_ifs
    · exact hostPoll_ne_fault (hostPoll_invariants hoffer hp) x
    · exact fun h' => by cases h'
  | fault y => exact absurd hp (hostPoll_ne_fault hoffer y)
  | refused y => exact fun h' => by cases h'

theorem meetByte_invariants {b : Byte} {s t : State} (h : Invariants s) (hm : meetByte b s = .next t) :
    Invariants t :=
  meetBytes_invariants h ((meetBytes_cons b [] s t).mpr ⟨t, hm, rfl⟩)

theorem meetBytes_ne_fault {s : State} (h : Invariants s) (bytes : List Byte) (x : Fault) :
    meetBytes bytes s ≠ .fault x := by
  induction bytes generalizing s with
  | nil => exact fun h' => by cases h'
  | cons b bs ih =>
    unfold meetBytes
    cases hm : meetByte b s with
    | next t => exact ih (meetByte_invariants h hm)
    | fault y => exact absurd hm (meetByte_ne_fault h b y)
    | refused y => exact fun h' => by cases h'

theorem LawfulOperation.ne_fault {i : Instr} (hi : LawfulOperation i) {s : State} (h : Invariants s) (x : Fault) :
    exec i s ≠ .fault x := by
  cases hi with
  | init => exact fun h' => by cases h'
  | poll => exact hostPoll_ne_fault h x
  | call address command size data => exact publicReturn_ne_fault s (callCore_ne_fault address command size data s x)
  | meets i bytes hm => exact hm s ▸ meetBytes_ne_fault h bytes x
  | returns i e hr => exact hr s ▸ fun h' => by cases h'

/-- Settles O56: a lawful word runs one of five kinds of operation, or bytes of the link, and none of them faults. -/
theorem stepReadsNoUnspecifiedByte : Obligations.StepReadsNoUnspecifiedByte := by
  intro s x h hstep
  unfold step fetch at hstep
  cases hport : s.port with
  | nil => rw [hport] at hstep; cases hstep
  | cons w rest =>
    obtain ⟨hw, hrest⟩ := h.fetched hport
    rw [hport] at hstep
    simp only at hstep
    cases hdec : decode w with
    | ok i =>
      rw [hdec] at hstep
      exact (lawfulOperation_of_decode hw hdec).ne_fault hrest x hstep
    | error e =>
      rw [hdec] at hstep
      cases w with
      | op sel address command size data => cases hstep
      | wire bytes => exact meetBytes_ne_fault hrest bytes x hstep
      | frame bytes => cases hw
      | encoded bytes => exact meetBytes_ne_fault hrest bytes x hstep
      | result code => cases hstep
      | stateCode code => cases hw

end Sys2Proof.Machine
end

section
/-! Proofs about the CRC engine (spec/40_crc8.md R111 to R121): the table as iterated shift steps, and the laws of the
fold, which rest on one shift step being injective. -/

namespace Sys2Proof.Machine

/-! ### The table -/

/-- R111: the `n` steps are the one step iterated. -/
theorem crcShifts_eq_iterate (polynomial : Byte) (n : Nat) (c : Byte) :
    crcShifts polynomial n c = (crcShift polynomial)^[n] c := by
  induction n generalizing c with
  | zero => rfl
  | succ n ih => exact ih _

/-- The bit that falls out of the step is bit 7 (R11). -/
theorem crcShift_eq (polynomial : Byte) :
    crcShift polynomial = fun c : Byte => if c.getLsbD 7 then (c <<< 1) ^^^ polynomial else c <<< 1 := by
  funext c
  simp only [crcShift, BitVec.msb_eq_getLsbD_last]

/-- Entry 0: a register of zeros stays at 0. -/
theorem tableEntry_zero (polynomial : Byte) : tableEntry polynomial 0 = 0 := by
  have hstep : crcShift polynomial 0 = 0 := by simp [crcShift]
  rw [tableEntry, crcShifts_eq_iterate, Function.iterate_fixed hstep]

/-- Entry 1: the one bit falls out in the eighth step. -/
theorem tableEntry_one (polynomial : Byte) : tableEntry polynomial 1 = polynomial := by
  have h7 : crcShifts polynomial 7 1 = 0x80 := by simp [crcShifts, crcShift, BitVec.msb_eq_getLsbD_last]
  have hlast : tableEntry polynomial 1 = crcShift polynomial (crcShifts polynomial 7 1) := by
    simp only [tableEntry, crcShifts_eq_iterate, Function.iterate_succ_apply']
  rw [hlast, h7]
  simp [crcShift, BitVec.msb_eq_getLsbD_last]

/-- Settles O33. -/
theorem buildTableWritesTheTable : Obligations.BuildTableWritesTheTable := by
  intro s polynomial
  refine ⟨buildTable polynomial, rfl, ?zero, ?one, ?entries, rfl⟩
  case zero => exact (buildTable_get polynomial 0).trans (tableEntry_zero polynomial)
  case one => exact (buildTable_get polynomial 1).trans (tableEntry_one polynomial)
  case entries =>
    intro i
    rw [buildTable_get, tableEntry, crcShifts_eq_iterate, crcShift_eq]

/-- R117: entry `i` of the built table is the `i`-th of its list. -/
theorem buildTable_toList (polynomial : Byte) :
    (buildTable polynomial).toList = (List.range 256).map fun i => tableEntry polynomial (BitVec.ofNat 8 i) := rfl

/-- Settles O34: the model's table, evaluated. -/
theorem crcTableAndCheckValues : Obligations.CrcTableAndCheckValues := by
  refine ⟨by decide +kernel, by decide +kernel, ?_⟩
  exact (buildTable_toList Config.poly).trans (by decide +kernel)

/-! ### The fold -/

/-- R112: the fold is the left fold of the step. -/
theorem fold_eq_foldl (table : Vector Byte 256) (bs : List Byte) (c : Byte) :
    fold table bs c = bs.foldl (fun c b => table[(c ^^^ b).toNat]) c := by
  induction bs generalizing c with
  | nil => rfl
  | cons b bs ih => exact ih _

/-- R113: the seed is entry 0xC0. -/
theorem seed_eq (table : Vector Byte 256) : seed table = table[0xC0] := rfl

/-- R113: of this hardware's table, 0x47. -/
theorem seed_poly : seed (buildTable Config.poly) = 0x47 :=
  (buildTable_get Config.poly 0xC0).trans (by decide)

/-- Settles O35: each operation hands over its fold; CRC.GEN has its two cases. -/
theorem crcOperationsFoldTheTable : Obligations.CrcOperationsFoldTheTable := by
  intro s
  refine ⟨fun htable => ?seed47, fun data c => ?fold, rfl, fun address command size payload hlen => ?gen,
    fun address command size payload hlen => ?short, fun frame => ?check⟩
  case seed47 => rw [← seed_eq, htable]; exact seed_poly
  case fold => rw [← fold_eq_foldl]; rfl
  case gen =>
    obtain ⟨-, h⟩ | ⟨hshort, -⟩ := crcGenAnswer_cases address command size payload s
    · rw [exec_crcGen, h, ← fold_eq_foldl]
      rfl
    · omega
  case short =>
    obtain ⟨hlong, -⟩ | ⟨-, h⟩ := crcGenAnswer_cases address command size payload s
    · omega
    · refine ⟨Config.freeCrc s.freeCount, ?_⟩
      rw [exec_crcGen, h]
      rfl
  case check => rw [← fold_eq_foldl]; rfl

/-! ### The laws of the fold -/

/-- A polynomial with bit 0 set marks the steps in which a 1 fell out, so a step can be undone. -/
theorem crcShift_injective {polynomial : Byte} (hodd : polynomial.getLsbD 0 = true) :
    Function.Injective (crcShift polynomial) := by
  have bit0 (c : Byte) : (crcShift polynomial c).getLsbD 0 = c.msb := by
    unfold crcShift
    split_ifs with hc <;> simp [hc, hodd]
  intro x y h
  have hmsb : x.msb = y.msb := by rw [← bit0 x, ← bit0 y, h]
  have hshift : x <<< 1 = y <<< 1 := by
    unfold crcShift at h
    rw [hmsb] at h
    split_ifs at h
    · exact BitVec.xor_left_inj _ |>.mp h
    · exact h
  refine BitVec.eq_of_getLsbD_eq fun i hi => ?_
  by_cases h7 : i = 7
  · subst h7
    simpa only [BitVec.msb_eq_getLsbD_last] using hmsb
  · have hbit := congrArg (fun z : Byte => z.getLsbD (i + 1)) hshift
    simpa [show i + 1 < 8 by omega, BitVec.getLsbD_eq_getElem hi] using hbit

/-- R116 law 4: the table is a permutation. -/
theorem buildTable_poly_injective {x y : Byte}
    (h : (buildTable Config.poly)[x.toNat] = (buildTable Config.poly)[y.toNat]) : x = y := by
  simp only [buildTable_get, tableEntry, crcShifts_eq_iterate] at h
  exact (crcShift_injective (by decide)).iterate 8 h

/-- One more byte folds to 0 only if it is the fold so far. -/
theorem fold_concat_eq_zero_iff (ds : List Byte) (c k : Byte) :
    fold (buildTable Config.poly) (ds ++ [k]) c = 0 ↔ k = fold (buildTable Config.poly) ds c := by
  have hzero : (buildTable Config.poly)[(0 : Byte).toNat] = 0 := by rw [buildTable_get, tableEntry_zero]
  rw [fold_append, fold_cons, fold_nil]
  generalize fold (buildTable Config.poly) ds c = d
  constructor
  · intro h
    have hxor : d ^^^ k = 0 := buildTable_poly_injective (h.trans hzero.symm)
    exact (BitVec.xor_eq_zero_iff.mp hxor).symm
  · rintro rfl
    simpa using hzero

/-- R116 law 3: CRC.CHECK accepts the frames whose last byte is CRC.GEN of the rest. -/
theorem check_iff (address command size : Byte) (payload : List Byte) (crc : Byte) :
    check (buildTable Config.poly) ([address, command, size] ++ payload ++ [crc]) = true ↔
      crc = gen (buildTable Config.poly) address command size payload := by
  rw [check, beq_iff_eq, fold_concat_eq_zero_iff]
  rfl

/-- Settles O36. -/
theorem foldLaws : Obligations.FoldLaws := by
  refine ⟨fun _ => rfl, fold_append _, fun bs => ?seed, fun ds c => ?selfCheck, check_iff,
    fun x y => buildTable_poly_injective, fold_concat_eq_zero_iff⟩
  case seed => rw [fold_cons, ← seed_poly]; rfl
  case selfCheck => exact (fold_concat_eq_zero_iff ds c _).mpr rfl

/-- The fold over the same bytes keeps two registers apart. -/
theorem fold_poly_injective (ds : List Byte) : Function.Injective (fold (buildTable Config.poly) ds) := by
  induction ds with
  | nil => exact fun _ _ h => h
  | cons b ds ih =>
    intro c d h
    exact (BitVec.xor_left_inj b).mp (buildTable_poly_injective (ih h))

/-- Settles O37: the changed byte sets two registers apart, and what stands after it keeps them so. -/
theorem oneByteChangeIsDetected : Obligations.OneByteChangeIsDetected := by
  intro before after b b' c hb h
  change fold (buildTable Config.poly) _ c = fold (buildTable Config.poly) _ c at h
  rw [fold_append, fold_append, fold_cons, fold_cons] at h
  exact hb ((BitVec.xor_right_inj _).mp (buildTable_poly_injective (fold_poly_injective after h)))

end Sys2Proof.Machine
end

section
/-! Proofs about the byte-stuffing codec and the lengths of frames (spec/41_stuffing.md R125 to R131,
spec/30_encoding.md R86). -/

namespace Sys2Proof.Machine

/-! ### STUFF -/

/-- R131 law 2: at every index of the stuffed tail, no preamble, and an escape byte only before a marker. -/
theorem stuffTail_getElem? (bs : List Byte) (k : Nat) :
    (stuffTail bs)[k]? ≠ some Config.preamble ∧
      ((stuffTail bs)[k]? = some Config.esc →
        (stuffTail bs)[k + 1]? = some Config.markA ∨ (stuffTail bs)[k + 1]? = some Config.markB) := by
  induction bs generalizing k with
  | nil => simp
  | cons b bs ih =>
    rw [stuffTail_cons]
    obtain ⟨-, h⟩ | ⟨-, h⟩ | ⟨hpre, hesc, h⟩ := stuffByte_cases b <;> rw [h]
    · match k with
      | 0 => exact ⟨by simp [Config.esc, Config.preamble], fun _ => .inl rfl⟩
      | 1 => exact ⟨by simp [Config.markA, Config.preamble], fun hm => by simp [Config.markA, Config.esc] at hm⟩
      | k + 2 => exact ih k
    · match k with
      | 0 => exact ⟨by simp [Config.esc, Config.preamble], fun _ => .inr rfl⟩
      | 1 => exact ⟨by simp [Config.markB, Config.preamble], fun hm => by simp [Config.markB, Config.esc] at hm⟩
      | k + 2 => exact ih k
    · match k with
      | 0 => exact ⟨by simpa using hpre, fun hm => absurd hm (by simpa using hesc)⟩
      | k + 1 => exact ih k

/-- Settles O39. -/
theorem stuffedTailHasNoRawReservedByte : Obligations.StuffedTailHasNoRawReservedByte :=
  fun _ rest k => stuffTail_getElem? rest k

/-- R86: the encoded stream is the preamble, the frame's bytes, and one byte more for each that is escaped. -/
theorem encodedBytes_length (f : Frame) :
    (encodedBytes f).length = f.payload.length + 5 + (frameBytes f).countP isReserved := by
  rw [encodedBytes_eq, List.length_cons, stuffTail_length, frameBytes_length]
  omega

/-- R86: a frame's byte 2 is never reserved where its payload is as long as can be: 252 is 0xFC. -/
theorem countP_frameBytes_le {f : Frame} (hsize : f.size = BitVec.ofNat 8 f.payload.length)
    (hlen : f.payload.length ≤ 252) : (frameBytes f).countP isReserved ≤ 507 - f.payload.length := by
  have hpayload : f.payload.countP isReserved ≤ f.payload.length := List.countP_le_length
  have hothers : (frameBytes f).countP isReserved ≤ f.payload.length + 3 + if isReserved f.size then 1 else 0 := by
    simp only [frameBytes, List.countP_cons, List.countP_append, List.countP_nil]
    split_ifs <;> omega
  by_cases hfull : f.payload.length = 252
  · have hfree : isReserved f.size = false := by rw [hsize, hfull]; decide
    rw [hfree] at hothers
    simp only [Bool.false_eq_true, if_false] at hothers
    omega
  · have : (if isReserved f.size then 1 else 0) ≤ 1 := by split_ifs <;> omega
    omega

/-- Settles O9. -/
theorem stuffedFrameLengthBounds : Obligations.StuffedFrameLengthBounds := by
  intro table address command payload hlen
  have hle : (frameBytes (buildFrame table address command payload)).countP isReserved ≤ 507 - payload.length :=
    countP_frameBytes_le rfl hlen
  rw [encodedBytes_length]
  change 5 + payload.length ≤ payload.length + 5 + _ ∧ payload.length + 5 + _ ≤ 512
  omega

/-! ### DESTUFF -/

/-- R127: the two markers, and no other byte. -/
theorem unescape_eq_none {m : Byte} (ha : m ≠ Config.markA) (hb : m ≠ Config.markB) : unescape m = none := by
  simp [unescape, ha, hb]

/-- R128: nothing fits into no room. -/
theorem destuffBytes_literal_zero {b : Byte} (rest : List Byte) (h : b ≠ Config.esc) :
    destuffBytes (b :: rest) 0 = .fail .capacity := by
  cases rest <;> simp [destuffBytes, h]

theorem destuffBytes_pair_zero {m v : Byte} (rest : List Byte) (h : unescape m = some v) :
    destuffBytes (Config.esc :: m :: rest) 0 = .fail .capacity := by
  simp [destuffBytes, h]

/-- Settles O40: one lemma for each first symbol. -/
theorem destuffReadsSymbolsLeftToRight : Obligations.DestuffReadsSymbolsLeftToRight := by
  intro s rest k
  refine ⟨fun _ => rfl, destuffBytes_nil k, ?lone, fun m ha hb => ?marker, ?pairA, ?pairB,
    fun b hb => destuffBytes_literal_zero rest hb, ?decodeA, ?decodeB, fun b hb => destuffBytes_literal b rest k hb⟩
  case lone => simp [destuffBytes, Config.esc]
  case marker => exact destuffBytes_badMarker m rest k (unescape_eq_none ha hb)
  case pairA => exact destuffBytes_pair_zero (m := Config.markA) (v := Config.preamble) rest rfl
  case pairB => exact destuffBytes_pair_zero (m := Config.markB) (v := Config.esc) rest (by decide)
  case decodeA => exact destuffBytes_pair Config.markA Config.preamble rest k rfl
  case decodeB => exact destuffBytes_pair Config.markB Config.esc rest k (by decide)

/-- R131 law 4: byte 0 is not escaped, so a sequence that begins with the escape byte is read as a pair, and is at best
one byte shorter. -/
theorem destuffBytes_stuffBytes_esc_ne {rest : List Byte} {k : Nat} (hlen : rest.length + 1 ≤ k) :
    destuffBytes (stuffBytes (Config.esc :: rest)) k ≠ .ok (Config.esc :: rest) := by
  intro h
  rw [stuffBytes_cons] at h
  obtain ⟨j, rfl, ⟨hne, -⟩ | ⟨-, m, tail, v, d, htail, hv, hd, hout⟩⟩ := destuffBytes_ok_cases h
  · exact hne rfl
  cases rest with
  | nil => cases htail
  | cons b bs =>
    obtain ⟨-, rfl⟩ : _ ∧ b :: bs = d := List.cons.inj hout
    have hesc : unescape Config.esc = none := by decide
    rw [stuffTail_cons] at htail
    obtain ⟨-, hb⟩ | ⟨-, hb⟩ | ⟨-, -, hb⟩ := stuffByte_cases b <;> rw [hb] at htail <;>
      obtain ⟨rfl, rfl⟩ := List.cons.inj htail
    · rw [hesc] at hv; cases hv
    · rw [hesc] at hv; cases hv
    · change destuffBytes (stuffTail bs) j = _ at hd
      rw [destuffBytes_stuffTail bs j (by simp only [List.length_cons] at hlen; omega)] at hd
      exact List.cons_ne_self b bs (DestuffResult.ok.inj hd).symm

/-- Settles O41. -/
theorem wholeRoundTripDomain : Obligations.WholeRoundTripDomain := by
  intro p k hlen
  cases p with
  | nil => simp [stuffBytes]
  | cons b rest =>
    rw [List.length_cons] at hlen
    by_cases hb : b = Config.esc
    · subst hb
      exact ⟨fun h => absurd h (destuffBytes_stuffBytes_esc_ne hlen), fun h => absurd h (by simp [Config.esc])⟩
    · obtain ⟨j, rfl⟩ : ∃ j, k = j + 1 := ⟨k - 1, by omega⟩
      have hok : destuffBytes (stuffBytes (b :: rest)) (j + 1) = .ok (b :: rest) := by
        rw [stuffBytes_cons, destuffBytes_literal b _ j hb, destuffBytes_stuffTail rest j (by omega)]
        rfl
      exact ⟨fun _ => .inr fun h => hb (Option.some.inj h), fun _ => hok⟩

/-- Decoded bytes in front of a result. -/
def DestuffResult.prepend (d : List Byte) : DestuffResult → DestuffResult
  | .ok d' => .ok (d ++ d')
  | .fail kind => .fail kind

theorem DestuffResult.prepend_nil (r : DestuffResult) : r.prepend [] = r := by cases r <;> rfl

theorem DestuffResult.cons_prepend (v : Byte) (d : List Byte) (r : DestuffResult) :
    (r.prepend d).cons v = r.prepend (v :: d) := by
  cases r <;> rfl

/-- R131 law 5, by induction on the length of the first piece: its first symbol is a byte or a pair. -/
theorem destuffBytes_append {as d : List Byte} {k : Nat} (bs : List Byte) (h : destuffBytes as k = .ok d) :
    destuffBytes (as ++ bs) k = (destuffBytes bs (k - d.length)).prepend d := by
  induction hn : as.length using Nat.strong_induction_on generalizing as d k with
  | _ n ih =>
    cases as with
    | nil =>
      obtain rfl : [] = d := by simpa using h
      rw [DestuffResult.prepend_nil]
      rfl
    | cons b rest =>
      rw [List.length_cons] at hn
      obtain ⟨j, rfl, ⟨hb, d', hd', rfl⟩ | ⟨rfl, m, rest', v, d', rfl, hv, hd', rfl⟩⟩ := destuffBytes_ok_cases h
      · rw [List.cons_append, destuffBytes_literal b _ j hb, ih rest.length (by omega) hd' rfl,
          DestuffResult.cons_prepend, List.length_cons, Nat.add_sub_add_right]
      · rw [List.cons_append, List.cons_append, destuffBytes_pair m v _ j hv,
          ih rest'.length (by simp only [List.length_cons] at hn; omega) hd' rfl, DestuffResult.cons_prepend,
          List.length_cons, Nat.add_sub_add_right]

/-- Settles O42. -/
theorem destuffInPieces : Obligations.DestuffInPieces := by
  intro as bs d k h
  rw [destuffBytes_append bs h]
  cases destuffBytes bs (k - d.length) <;> rfl

end Sys2Proof.Machine
end

section
/-! Proofs about the timeout supervisor (spec/42_timeout.md R142 to R149). -/

namespace Sys2Proof.Machine

/-- R143, without a wrap. -/
theorem elapsed_of_le {start now : U32} (h : start.toNat ≤ now.toNat) : elapsed start now = now.toNat - start.toNat :=
  if_pos (BitVec.le_def.mpr h)

/-- R143, across a wrap. -/
theorem elapsed_of_lt {start now : U32} (h : now.toNat < start.toNat) :
    elapsed start now = 0xFFFFFFFF - start.toNat + now.toNat :=
  if_neg fun hle => absurd (BitVec.le_def.mp hle) (by omega)

/-- R145: an armed timer's elapsed time is at most `MAX_U32`. -/
theorem elapsed_le_max (start now : U32) : elapsed start now ≤ 0xFFFFFFFF := by
  have hnow := now.isLt
  by_cases h : start.toNat ≤ now.toNat
  · rw [elapsed_of_le h]; omega
  · rw [elapsed_of_lt (by omega)]; omega

theorem expired_of_disarmed {s : State} (h : s.timerStart = 0) (now : U32) : expired now s = false := by
  simp [expired, timerArmed, h]

theorem expired_of_armed {s : State} (h : s.timerStart ≠ 0) (now : U32) :
    expired now s = decide (s.timeoutMs.toNat < elapsed s.timerStart now) := by
  rw [expired, show timerArmed s = true from bne_iff_ne.mpr h, Bool.true_and]

theorem exec_tmrCheck (now : U32) (s : State) :
    exec (.tmrCheck now) s = .next { s with out := .expired (expired now s) } := rfl

/-- Settles O30. -/
theorem timerOperations : Obligations.TimerOperations := by
  intro s now
  refine ⟨⟨rfl, ?armed, rfl, rfl⟩, fun h => ?inactive, fun h hle => ?straight, fun h hlt => ?wrapped⟩
  case armed => simp [timerArmed]
  case inactive => rw [exec_tmrCheck, expired_of_disarmed h]
  case straight => rw [exec_tmrCheck, expired_of_armed h, elapsed_of_le hle]
  case wrapped => rw [exec_tmrCheck, expired_of_armed h, elapsed_of_lt hlt]

/-- Settles O32. -/
theorem elapsedTimeAcrossTheWrap : Obligations.ElapsedTimeAcrossTheWrap := by
  refine ⟨fun start now _ => ⟨fun hle => ?straight, fun hlt => ?wrapped⟩, fun s now hmax => ?never⟩
  case straight =>
    refine ⟨?_, elapsed_le_max start now⟩
    rw [elapsed_of_le hle, BitVec.toNat_sub_of_le (BitVec.le_def.mpr hle)]
  case wrapped =>
    have hstart := start.isLt
    rw [elapsed_of_lt hlt, BitVec.toNat_sub]
    omega
  case never =>
    have hle := elapsed_le_max s.timerStart now
    have hms : s.timeoutMs.toNat = 0xFFFFFFFF := by rw [hmax]; rfl
    by_cases h : s.timerStart = 0
    · exact expired_of_disarmed h now
    · rw [expired_of_armed h, hms]
      exact decide_eq_false (by omega)

end Sys2Proof.Machine
end

section
/-! Proofs about reset, INIT, the codes and the table's words (spec/10_state.md R36, spec/45_system_ops.md R195,
spec/30_encoding.md R92 to R94). -/

namespace Sys2Proof.Machine

/-- Settles O1: `State.reset` lists these values; an empty store has no byte at any index. -/
theorem resetHoldsTheStatedValues : Obligations.ResetHoldsTheStatedValues :=
  ⟨rfl, rfl, rfl, rfl, rfl, rfl, fun _ => ⟨rfl, rfl, rfl⟩, rfl⟩

/-- Settles O2: INIT writes every register that has a reset value, and no field beside them. -/
theorem initGivesResetValues : Obligations.InitGivesResetValues := fun _ => rfl

/-- Settles O51, row by row. -/
theorem errorCodesReachTheResultPort : Obligations.ErrorCodesReachTheResultPort := by
  intro s i e byte h
  simp only [List.mem_cons, Prod.mk.injEq, List.not_mem_nil, or_false] at h
  obtain ⟨rfl, rfl, rfl⟩ | ⟨rfl, rfl, rfl⟩ | ⟨rfl, rfl, rfl⟩ | ⟨rfl, rfl, rfl⟩ | ⟨rfl, rfl, rfl⟩ | ⟨rfl, rfl, rfl⟩ := h
  all_goals exact ⟨rfl, rfl, rfl⟩

/-- Settles O52: `Pending` holds `need` at 0 (R22), the two other rows write the state alone. -/
theorem stateCodesWriteTheStateRegister : Obligations.StateCodesWriteTheStateRegister :=
  fun _ => ⟨rfl, rfl, rfl, rfl, rfl, rfl, rfl⟩

/-- Settles O59: the decoder, evaluated. -/
theorem tableWordsDecode : Obligations.TableWordsDecode :=
  ⟨rfl, rfl, rfl, rfl, rfl, rfl, rfl, rfl, rfl, rfl⟩

end Sys2Proof.Machine
end

section
/-! Proofs about the host's CALL (spec/44_transmit.md R180 to R191): its answer in each case of the size, the guard and
the room in `tx`. -/

namespace Sys2Proof.Machine

theorem publicReturn_of_not_initialised {s : State} (h : s.initialised = false) (r : Res ErrorCode) :
    publicReturn s r = .refused .beforeInit := by
  simp [publicReturn, h]

theorem publicReturn_of_refused {s : State} (h : s.initialised = true) (x : Refusal) :
    publicReturn s (.refused x) = .refused x := by
  simp [publicReturn, h]

/-- R191: fewer data bytes than `size` are refused before any other test (log entry 21). -/
theorem callCore_of_short {address command : Byte} {size : Nat} {data : List Byte} {s : State}
    (h : data.length < size) : callCore address command size data s = .refused .shortData := by
  obtain ⟨-, hc⟩ | ⟨hlong, -⟩ := callCore_cases address command size data s
  · exact hc
  · omega

/-- R181: a size above 252 is answered before the state is looked at. -/
theorem callCore_of_oversized {address command : Byte} {size : Nat} {data : List Byte} {s : State} (h : 252 < size)
    (hdata : size ≤ data.length) : callCore address command size data s = .next (.invalidData, s) := by
  obtain ⟨hshort, -⟩ | ⟨-, ⟨-, hc⟩ | ⟨hle, -⟩ | ⟨hle, -⟩⟩ := callCore_cases address command size data s
  · omega
  · exact hc
  · omega
  · omega

/-- R183 to R186: in `Pending` a legal payload is framed, stuffed and transmitted. -/
theorem callCore_of_pending {address command : Byte} {size : Nat} {data : List Byte} {s : State} (h : size ≤ 252)
    (hdata : size ≤ data.length) (hs : s.state = .pending) :
    callCore address command size data s =
      .next (transmit (encodedBytes (buildFrame s.crcTable address command (data.take size))) s) := by
  obtain ⟨hshort, -⟩ | ⟨-, ⟨hbig, -⟩ | ⟨-, hbusy, -⟩ | ⟨-, -, hc⟩⟩ := callCore_cases address command size data s
  · omega
  · omega
  · exact absurd hs hbusy
  · exact hc

/-- R186: a stuffed frame that fits `tx` is written and sent. -/
theorem transmit_of_fits {stuffed : List Byte} {s : State} (h : stuffed.length ≤ s.txCapacity) :
    transmit stuffed s = (.none, afterWrite stuffed (setTx stuffed s)) := by
  obtain ⟨hlong, -⟩ | ⟨-, hc⟩ := transmit_cases stuffed s
  · omega
  · exact hc

/-- R185: one that does not leaves `tx` unspecified. -/
theorem transmit_of_overflow {stuffed : List Byte} {s : State} (h : s.txCapacity < stuffed.length) :
    transmit stuffed s = (.overflow, unspecifiedTx s) := by
  obtain ⟨-, hc⟩ | ⟨hfits, -⟩ := transmit_cases stuffed s
  · exact hc
  · omega

/-- R185: what is unspecified is `tx`, within its capacity, and nothing beside it (log entry 9). -/
theorem unspecifiedTx_bounds (s : State) :
    { unspecifiedTx s with tx := s.tx, txLen := s.txLen, freeCount := s.freeCount } = s ∧
      (unspecifiedTx s).txLen ≤ s.txCapacity ∧ (unspecifiedTx s).tx.dense (unspecifiedTx s).txLen = true := by
  refine ⟨rfl, ?_, Memory.dense_ofBytes _⟩
  simpa using freeTxLength_le s

/-- Settles O3: the mark of the first INIT is tested first, then the length of the data. -/
theorem refusedInvocations : Obligations.RefusedInvocations := by
  refine ⟨fun s h => ⟨?poll, fun address command size data => ?call⟩,
    fun s address command size data h hshort => ?short⟩
  case poll => exact publicReturn_of_not_initialised h _
  case call => exact publicReturn_of_not_initialised h _
  case short => rw [exec_call, callCore_of_short hshort, publicReturn_of_refused h]

/-- Settles O5: the size test is the only source of the code. -/
theorem callRejectsOversizedPayload : Obligations.CallRejectsOversizedPayload := by
  intro s address command size data hinit
  refine ⟨fun hbig hdata => ?oversized, fun hle t ht hout => ?legal⟩
  case oversized => exact publicReturn_of_next hinit (callCore_of_oversized hbig hdata)
  case legal =>
    rw [exec_call] at ht
    obtain ⟨-, e, u, hcall, rfl⟩ := (publicReturn_next_iff _ _ _).mp ht
    obtain rfl : e = .invalidData := Output.code.inj hout
    obtain ⟨-, ⟨hbig, -⟩ | ⟨-, -, hcode, -⟩ | ⟨-, -, htransmit⟩⟩ := callCore_next_cases hcall
    · omega
    · cases hcode
    · obtain ⟨-, hcode, -⟩ | ⟨-, hcode, -⟩ := transmit_next_cases htransmit
      · cases hcode
      · cases hcode

/-- Settles O7. -/
theorem callOverflowSendsNothing : Obligations.CallOverflowSendsNothing := by
  intro s address command size data hinit hs hle hdata hlong
  have hcall := callCore_of_pending (address := address) (command := command) hle hdata hs
  rw [transmit_of_overflow hlong] at hcall
  obtain ⟨-, hlen, hdense⟩ := unspecifiedTx_bounds s
  exact ⟨returnCode .overflow (unspecifiedTx s), publicReturn_of_next hinit hcall, rfl, hlen, hdense⟩

/-- Settles O8: in each of CALL's answers the rest of the context is as it was. -/
theorem callLeavesTheReceiveSession : Obligations.CallLeavesTheReceiveSession := by
  intro s t address command size data h
  rw [exec_call] at h
  obtain ⟨-, e, u, hcall, rfl⟩ := (publicReturn_next_iff _ _ _).mp h
  obtain ⟨-, ⟨-, -, rfl⟩ | ⟨-, -, -, rfl⟩ | ⟨-, -, htransmit⟩⟩ := callCore_next_cases hcall
  · rfl
  · rfl
  · obtain ⟨-, -, rfl⟩ | ⟨-, -, rfl⟩ := transmit_next_cases htransmit
    · rfl
    · rfl

/-- R80, R81, R84: the encoded stream of the frame that CALL builds, written out. -/
theorem encodedBytes_buildFrame (table : Vector Byte 256) (address command : Byte) (payload : List Byte) :
    encodedBytes (buildFrame table address command payload) = Config.preamble ::
      ([address, command, BitVec.ofNat 8 payload.length] ++ payload ++
        [fold table ([address, command, BitVec.ofNat 8 payload.length] ++ payload)
          (fold table [Config.preamble] 0)]).flatMap stuffByte := by
  rw [encodedBytes_eq, stuffTail_eq_flatMap]
  rfl

/-- Settles O4. -/
theorem callTransmitsTheStuffedFrame : Obligations.CallTransmitsTheStuffedFrame := by
  intro s address command size data hinit hs hle hdata payload header crc stuffed hfits
  have hlen : payload.length = size := List.length_take_of_le hdata
  have hstuffed : encodedBytes (buildFrame s.crcTable address command payload) = stuffed := by
    rw [encodedBytes_buildFrame, hlen]
    rfl
  have hcall := callCore_of_pending (address := address) (command := command) hle hdata hs
  rw [hstuffed, transmit_of_fits hfits] at hcall
  rw [exec_call, publicReturn_of_next hinit hcall]
  simp only [returnCode, afterWrite, setTx, List.append_assoc]
  rfl

end Sys2Proof.Machine
end

section
/-! Proofs about the platform callbacks (spec/45_system_ops.md R196 to R199). -/

namespace Sys2Proof.Machine

theorem exec_read (max : Nat) (s : State) : exec (.read max) s = hand (callRead max s) .bytes := rfl

theorem callRead_of_overrun {max : Nat} {s : State} (h : max < (readAnswer max s).length) :
    callRead max s = .refused .readOverrun := if_pos h

/-- R51: with a listed count READ takes that many of the waiting bytes, and no free value. -/
theorem afterRead_listed {max n : Nat} {s : State} {ns : List Nat} (h : s.counts = n :: ns) :
    afterRead max s = { s with
      rx := s.rx.drop n, counts := ns, trace := s.trace ++ [.read max (s.rx.take n)] } := by
  have hrx : (if s.rx.isEmpty then [] else s.rx.drop (readCount max s)) = s.rx.drop n := by
    cases hr : s.rx <;> simp [readCount, h]
  rw [afterRead, readAnswer_listed h, hrx]
  simp [h]

/-- Settles O43: a listed count within the bound, one above it, and none. -/
theorem readConsumesTheOldestBytes : Obligations.ReadConsumesTheOldestBytes := by
  intro s max
  refine ⟨fun n ns hc hle => ?listed, fun n ns hc hlt => ?overrun, fun hc => ?free⟩
  case listed =>
    rw [exec_read, callRead_of_le (by rwa [readAnswer_listed hc]), hand_next, readAnswer_listed hc, afterRead_listed hc]
    rfl
  case overrun =>
    rw [exec_read, callRead_of_overrun (by rwa [readAnswer_listed hc])]
    rfl
  case free =>
    refine ⟨readAnswer max s, (afterRead max s).rx, (afterRead max s).freeCount, (readAnswer_append_rx max s).symm,
      readAnswer_free hc, ?_⟩
    rw [exec_read, callRead_of_le (readAnswer_free hc), hand_next]
    simp [handOut, afterRead, hc]

/-- Settles O44. -/
theorem callbacksLeaveTheRegisters : Obligations.CallbacksLeaveTheRegisters := by
  intro s
  have hnow : exec .now s = .next (handOut (.sample (nowAnswer s)) (afterNow s)) := rfl
  have hhandle (cmd : Byte) (data : List Byte) (size : Nat) : exec (.handle cmd data size) s =
      .next (handOut (.reply (handleAnswer s)) (afterHandle cmd data size s)) := rfl
  refine ⟨fun v vs h => ?now, fun h => ?freeNow, fun bytes => ?write, fun cmd data size r rs h => ?handle,
    fun cmd data size h => ?freeHandle⟩
  case now =>
    rw [hnow]
    simp [handOut, afterNow, nowAnswer, h]
  case freeNow =>
    refine ⟨nowAnswer s, ?_⟩
    rw [hnow]
    simp [handOut, afterNow, h]
  case write => exact ⟨writeAnswer s, (afterWrite bytes s).freeCount, rfl⟩
  case handle =>
    rw [hhandle]
    simp [handOut, afterHandle, handleAnswer, h]
  case freeHandle =>
    refine ⟨handleAnswer s, handleAnswer_kept (by simp [h]), ?_⟩
    rw [hhandle]
    simp [handOut, afterHandle, h]

end Sys2Proof.Machine
end

section
/-! What the internal operations of the frame assembler answer in each of their cases (spec/43_frame_assembler.md R152
to R164, spec/20_memory.md R57): an equation per case, and the operations' own statements. -/

namespace Sys2Proof.Machine

theorem exec_rxPending (now : U32) (s : State) : exec (.rxPending now) s = hand (rxPending now s) .code := rfl
theorem exec_rxReadDestuff (s : State) : exec .rxReadDestuff s = hand (rxReadDestuff s) ReadResult.output := rfl
theorem exec_rxHeader (s : State) : exec .rxHeader s = hand (rxHeader s) .code := rfl
theorem exec_rxComplete (s : State) : exec .rxComplete s = hand (rxComplete s) .code := rfl
theorem exec_rxDispatch (s : State) : exec .rxDispatch s = hand (rxDispatch s) .code := rfl
theorem exec_rxReply (reply : Reply) (s : State) : exec (.rxReply reply) s = hand (rxReply reply s) .code := rfl

/-- A refusal handed over is the operation's own. -/
theorem hand_refused_iff {α : Type} (r : Res α) (f : α → Output) (x : Refusal) :
    hand r f = .refused x ↔ r = .refused x := by
  rcases r with ⟨a, s⟩ | y | y <;> simp

/-- Only an abort of RX.READ_DESTUFF hands over a code. -/
theorem output_eq_code {r : ReadResult} {e : ErrorCode} (h : r.output = .code e) : r = .aborted e := by
  cases r with
  | noProgress => cases h
  | progress => cases h
  | aborted e' => rw [Output.code.inj h]

/-! ### RX.PENDING -/

theorem rxPending_of_nothing {now : U32} {s : State} (h : readAnswer 1 s = []) :
    rxPending now s = .next (.none, afterRead 1 s) := by
  rw [rxPending, callRead_of_le (by simp [h]), andThen_next, h]
  rfl

theorem rxPending_of_preamble {now : U32} {s : State} (h : readAnswer 1 s = [Config.preamble]) :
    rxPending now s = .next (.none, beginFrame now (afterRead 1 s)) := by
  rw [rxPending, callRead_of_le (by simp [h]), andThen_next, h]
  rfl

theorem rxPending_of_other {now : U32} {s : State} {b : Byte} (hb : b ≠ Config.preamble) (h : readAnswer 1 s = [b]) :
    rxPending now s = .next (.invalidData, afterRead 1 s) := by
  rw [rxPending, callRead_of_le (by simp [h]), andThen_next, h]
  exact if_neg hb

/-- R153: what the preamble writes. -/
theorem beginFrame_eq (now : U32) (s : State) :
    beginFrame now s = { s with
      state := .headerReceiving, need := 3, timerStart := now, intake := [], intakeLen := 0, work := [],
      workLen := 0 } := rfl

/-- Settles O20. -/
theorem rxPendingClassifiesOneByte : Obligations.RxPendingClassifiesOneByte := by
  intro s now u
  refine ⟨fun h => ?nothing, fun h => ?preamble, fun b hb h => ?other⟩
  case nothing => rw [exec_rxPending, rxPending_of_nothing h]; rfl
  case preamble => rw [exec_rxPending, rxPending_of_preamble h]; rfl
  case other => rw [exec_rxPending, rxPending_of_other hb h]; rfl

/-! ### RX.READ_DESTUFF -/

section
variable {s : State}

theorem rxReadDestuff_of_full (h : s.intakeCapacity < s.intakeLen + s.need.toNat) :
    rxReadDestuff s = .next (.aborted .overflow, abort s) := if_pos h

theorem rxReadDestuff_of_room (h : s.intakeLen + s.need.toNat ≤ s.intakeCapacity) :
    rxReadDestuff s = andThen (callRead s.need.toNat s) takeNew := if_neg (by omega)

theorem rxReadDestuff_of_overrun (hroom : s.intakeLen + s.need.toNat ≤ s.intakeCapacity)
    (h : s.need.toNat < (readAnswer s.need.toNat s).length) : rxReadDestuff s = .refused .readOverrun := by
  rw [rxReadDestuff_of_room hroom, callRead_of_overrun h, andThen_refused]

theorem rxReadDestuff_of_silence (hroom : s.intakeLen + s.need.toNat ≤ s.intakeCapacity)
    (h : readAnswer s.need.toNat s = []) : rxReadDestuff s = .next (.noProgress, afterRead s.need.toNat s) := by
  rw [rxReadDestuff_of_room hroom, callRead_of_le (by simp [h]), andThen_next, h]
  rfl

/-- R157: the abort empties what the new bytes were appended to. -/
theorem rxReadDestuff_of_stray (hroom : s.intakeLen + s.need.toNat ≤ s.intakeCapacity)
    (hle : (readAnswer s.need.toNat s).length ≤ s.need.toNat) (h : Config.preamble ∈ readAnswer s.need.toNat s) :
    rxReadDestuff s = .next (.aborted .invalidData, abort (afterRead s.need.toNat s)) := by
  rw [rxReadDestuff_of_room hroom, callRead_of_le hle, andThen_next]
  cases hnew : readAnswer s.need.toNat s with
  | nil => rw [hnew] at h; cases h
  | cons b bs => exact if_pos (hnew ▸ h)

/-- R158: the split of the accumulated intake is the one with an escape byte at its end, if there is one. -/
theorem splitHeld_eq {bytes body : List Byte} {hold : Bool} (h : bytes = body ++ if hold then [Config.esc] else [])
    (hlast : hold = false → body.getLast? ≠ some Config.esc) : splitHeld bytes = (body, hold) := by
  cases hold with
  | true => simp [splitHeld, h]
  | false => simp [splitHeld, h, hlast rfl]

/-- R158, R159: with new bytes and no stray preamble, DESTUFF of the complete part decides. -/
theorem rxReadDestuff_of_bytes {held body : List Byte} {hold : Bool} (hi : s.intake = Memory.ofBytes held)
    (hil : s.intakeLen = held.length) (hroom : s.intakeLen + s.need.toNat ≤ s.intakeCapacity)
    (hle : (readAnswer s.need.toNat s).length ≤ s.need.toNat) (hsome : readAnswer s.need.toNat s ≠ [])
    (hstray : Config.preamble ∉ readAnswer s.need.toNat s)
    (hsplit : held ++ readAnswer s.need.toNat s = body ++ if hold then [Config.esc] else [])
    (hlast : hold = false → body.getLast? ≠ some Config.esc) :
    rxReadDestuff s = destuffBody body hold (appendIntake (readAnswer s.need.toNat s) (afterRead s.need.toNat s)) := by
  rw [rxReadDestuff_of_room hroom, callRead_of_le hle, andThen_next]
  generalize hnew : readAnswer s.need.toNat s = new at *
  have hbytes : intakeBytes (appendIntake new (afterRead s.need.toNat s)) = some (held ++ new) :=
    intakeBytes_ofBytes (by simp [hi, hil]) (by simp [hil])
  cases new with
  | nil => exact absurd rfl hsome
  | cons b bs =>
    simp only [takeNew, if_neg hstray, destuffIntake, hbytes, splitHeld_eq hsplit hlast]

/-- R159: a failure of DESTUFF aborts. -/
theorem rxReadDestuff_of_failure {held body : List Byte} {hold : Bool} {kind : DestuffFailure}
    (hi : s.intake = Memory.ofBytes held) (hil : s.intakeLen = held.length)
    (hroom : s.intakeLen + s.need.toNat ≤ s.intakeCapacity)
    (hle : (readAnswer s.need.toNat s).length ≤ s.need.toNat) (hsome : readAnswer s.need.toNat s ≠ [])
    (hstray : Config.preamble ∉ readAnswer s.need.toNat s)
    (hsplit : held ++ readAnswer s.need.toNat s = body ++ if hold then [Config.esc] else [])
    (hlast : hold = false → body.getLast? ≠ some Config.esc)
    (hfail : destuffBytes body (Config.capacity - s.workLen) = .fail kind) :
    rxReadDestuff s = .next (.aborted .invalidData, abort (afterRead s.need.toNat s)) := by
  rw [rxReadDestuff_of_bytes hi hil hroom hle hsome hstray hsplit hlast]
  obtain ⟨rfl, -⟩ | ⟨kind', -, hc⟩ | ⟨decoded, -, hok, -⟩ := destuffBody_cases body hold
    (appendIntake (readAnswer s.need.toNat s) (afterRead s.need.toNat s))
  · rw [destuffBytes_nil] at hfail; cases hfail
  · exact hc
  · have hclash : DestuffResult.fail kind = .ok decoded := hfail.symm.trans hok
    cases hclash

/-- R159: what decodes is appended, and only the withheld byte stays in `intake`. -/
theorem keepIntake_appendWork {hold : Bool} {ws decoded new : List Byte} (hw : s.work = Memory.ofBytes ws)
    (hwl : s.workLen = ws.length) :
    keepIntake hold (appendWork decoded (appendIntake new (afterRead s.need.toNat s))) =
      afterDecode s ws decoded hold := by
  have hwork : s.work.writeBytes s.workLen decoded = Memory.ofBytes (ws ++ decoded) := by
    rw [hw, hwl, Memory.writeBytes_ofBytes]
  have hlen : s.workLen + decoded.length = (ws ++ decoded).length := by rw [hwl, List.length_append]
  cases hold <;>
    simp only [keepIntake, appendWork, appendIntake, afterDecode, clearIntake, afterRead_work, afterRead_workLen, hwork,
      hlen] <;> rfl

theorem rxReadDestuff_of_decodes {held ws new body decoded : List Byte} {hold : Bool}
    (h : Decodes s held ws new body decoded hold) :
    rxReadDestuff s = .next (.progress, afterDecode s ws decoded hold) := by
  have hanswer := h.answer
  have hroom : s.intakeLen + s.need.toNat ≤ s.intakeCapacity := h.intakeLen ▸ h.room
  subst hanswer
  rw [rxReadDestuff_of_bytes h.intake h.intakeLen hroom h.bound h.some h.noStray h.split h.last,
    ← keepIntake_appendWork h.work h.workLen (new := readAnswer s.need.toNat s)]
  have hok := h.decode
  rw [← h.workLen] at hok
  obtain ⟨rfl, hc⟩ | ⟨kind, hfail, -⟩ | ⟨decoded', -, hok', hc⟩ := destuffBody_cases body hold
    (appendIntake (readAnswer s.need.toNat s) (afterRead s.need.toNat s))
  · obtain rfl : [] = decoded := by simpa using hok
    exact hc
  · have hclash : DestuffResult.ok decoded = .fail kind := hok.symm.trans hfail
    cases hclash
  · obtain rfl : decoded = decoded' := DestuffResult.ok.inj (hok.symm.trans hok')
    exact hc

end

/-- Settles O21. -/
theorem readDestuffAppendsDecodedBytes : Obligations.ReadDestuffAppendsDecodedBytes := by
  intro s held ws new body decoded hold h
  rw [exec_rxReadDestuff, rxReadDestuff_of_decodes h]
  rfl

/-- Settles O22. -/
theorem readDestuffDecodesNothing : Obligations.ReadDestuffDecodesNothing := by
  intro s aborted
  refine ⟨fun hroom h => ?silence, fun h => ?full, fun hroom hle h => ?stray,
    fun held body hold kind hi hil hroom hle hsome hstray hsplit hlast hfail => ?failure⟩
  case silence => rw [exec_rxReadDestuff, rxReadDestuff_of_silence hroom h]; rfl
  case full => rw [exec_rxReadDestuff, rxReadDestuff_of_full h]; rfl
  case stray => rw [exec_rxReadDestuff, rxReadDestuff_of_stray hroom hle h]; rfl
  case failure =>
    rw [exec_rxReadDestuff, rxReadDestuff_of_failure hi hil hroom hle hsome hstray hsplit hlast hfail]
    rfl

/-! ### RX.HEADER -/

theorem rxHeader_of_read {s u : State} {r : ReadResult} (h : rxReadDestuff s = .next (r, u)) :
    rxHeader s = headerStep r u := by
  rw [rxHeader, h, andThen_next]

theorem headerStep_of_short {s : State} (h : s.workLen < 3) :
    headerStep .progress s = .next (.none, setNeed (3 - s.workLen) s) :=
  if_neg (by simp only [Config.headerSize]; omega)

/-- R160, for exactly three bytes in `work`. -/
theorem headerStep_of_three {s : State} {size : Byte} (hlen : s.workLen = 3) (hsize : workByte s 2 = some size) :
    headerStep .progress s = if 252 < size.toNat then .next (.invalidData, abort s)
      else .next (.none, { s with state := .completeReceiving, need := BitVec.ofNat 8 (size.toNat + 1) }) := by
  have hbyte : workByte (setNeed (Config.headerSize - s.workLen) s) 2 = some size := hsize
  have hzero : Config.headerSize - s.workLen = 0 := by simp only [Config.headerSize]; omega
  have hrest : s.workLen - Config.headerSize = 0 := by simp only [Config.headerSize]; omega
  simp only [headerStep, if_pos hzero, headerDone, hbyte, setNeed_workLen, hrest]
  rfl

/-- Settles O23. -/
theorem rxHeaderCollectsThreeBytes : Obligations.RxHeaderCollectsThreeBytes := by
  intro s
  refine ⟨fun hroom h => ?silence, fun t e ht hout => ?aborted, fun held ws new body decoded hold h => ?decodes⟩
  case silence => rw [exec_rxHeader, rxHeader_of_read (rxReadDestuff_of_silence hroom h)]; rfl
  case aborted =>
    obtain ⟨r, u, hr, rfl⟩ := (hand_next_iff _ _ _).mp ht
    obtain rfl := output_eq_code hout
    rw [exec_rxHeader, rxHeader_of_read hr]
    rfl
  case decodes =>
    have hread := rxHeader_of_read (rxReadDestuff_of_decodes h)
    have hbyte : workByte (afterDecode s ws decoded hold) 2 = (ws ++ decoded)[2]? := workByte_ofBytes rfl rfl 2
    refine ⟨fun hlt => ?_, fun a c size hthree hle => ?_, fun a c size hthree hgt => ?_⟩
    · rw [exec_rxHeader, hread, headerStep_of_short hlt]
      rfl
    · rw [hthree] at hbyte
      rw [exec_rxHeader, hread, headerStep_of_three (congrArg List.length hthree) hbyte, if_neg (by omega)]
      rfl
    · rw [hthree] at hbyte
      rw [exec_rxHeader, hread, headerStep_of_three (congrArg List.length hthree) hbyte, if_pos hgt]
      rfl

/-! ### RX.COMPLETE -/

theorem rxComplete_of_read {s u : State} {r : ReadResult} (h : rxReadDestuff s = .next (r, u)) :
    rxComplete s = completeStep r u := by
  rw [rxComplete, h, andThen_next]

/-- R161, with the size byte in `work`. -/
theorem completeStep_of_size {s : State} {size : Byte} (hsize : workByte s 2 = some size) :
    completeStep .progress s = if s.workLen < 3 + size.toNat + 1
      then .next (.none, setNeed (3 + size.toNat + 1 - s.workLen) s) else rxDispatch { s with need := 0 } := by
  simp only [completeStep, hsize, Config.headerSize, Config.crcSize, Nat.sub_pos_iff_lt]
  split_ifs with hlt
  · rfl
  · rw [Nat.sub_eq_zero_of_le (by omega)]
    rfl

/-- Settles O24. -/
theorem rxCompleteCollectsTheFrame : Obligations.RxCompleteCollectsTheFrame := by
  intro s
  refine ⟨fun hroom h => ?silence, fun t e ht hout => ?aborted,
    fun held ws new body decoded hold size h hsize => ?decodes⟩
  case silence => rw [exec_rxComplete, rxComplete_of_read (rxReadDestuff_of_silence hroom h)]; rfl
  case aborted =>
    obtain ⟨r, u, hr, rfl⟩ := (hand_next_iff _ _ _).mp ht
    obtain rfl := output_eq_code hout
    rw [exec_rxComplete, rxComplete_of_read hr]
    rfl
  case decodes =>
    have hbyte : workByte (afterDecode s ws decoded hold) 2 = some size := (workByte_ofBytes rfl rfl 2).trans hsize
    have hread := (rxComplete_of_read (rxReadDestuff_of_decodes h)).trans (completeStep_of_size hbyte)
    refine ⟨fun hlt => ?_, fun hle => ?_⟩
    · rw [exec_rxComplete, hread]
      exact congrArg (hand · Output.code) (if_pos hlt)
    · rw [exec_rxComplete, hread, exec_rxDispatch]
      exact congrArg (hand · Output.code) (if_neg (Nat.not_lt.mpr hle))

/-! ### RX.FILTER, RX.DISPATCH, RX.REPLY -/

/-- R163. -/
theorem accepts_iff {ownAddress frameAddress : Byte} :
    accepts ownAddress frameAddress = true ↔ ownAddress = 0 ∨ frameAddress = 0 ∨ frameAddress = ownAddress := by
  simp only [accepts, Bool.not_eq_true', Bool.and_eq_false_iff, bne_eq_false_iff_eq, or_assoc]

/-- Settles O26. -/
theorem rxFilterTruthTable : Obligations.RxFilterTruthTable := by
  intro s frameAddress
  have haccepts : accepts s.ownAddress frameAddress =
      if s.ownAddress = 0 then true else if frameAddress = 0 then true else decide (frameAddress = s.ownAddress) := by
    rw [Bool.eq_iff_iff, accepts_iff]
    split_ifs with hown haddress
    · simp [hown]
    · simp [haddress]
    · rw [decide_eq_true_iff]
      exact ⟨fun h => (h.resolve_left hown).resolve_left haddress, fun h => .inr (.inr h)⟩
  rw [← haccepts]
  rfl

/-- R115 with the seed of R113 written out. -/
theorem check_iff_fold (table : Vector Byte 256) (frame : List Byte) :
    check table frame = true ↔ fold table frame (fold table [Config.preamble] 0) = 0 := by
  rw [check, beq_iff_eq]
  rfl

theorem nonEmptyReply_iff (r : Reply) : nonEmptyReply r = true ↔ r.data ≠ none ∧ 0 < r.size := by
  simp [nonEmptyReply, Option.isSome_iff_ne_none]

theorem nonEmptyReply_eq_false {r : Reply} (h : r.data = none ∨ r.size = 0) : nonEmptyReply r = false := by
  rw [← Bool.not_eq_true, nonEmptyReply_iff]
  rintro ⟨hdata, hsize⟩
  obtain h | h := h
  · exact hdata h
  · omega

/-- R163, where the frame is for another node. -/
theorem accepts_eq_false {ownAddress frameAddress : Byte} (hown : ownAddress ≠ 0) (haddress : frameAddress ≠ 0)
    (hother : frameAddress ≠ ownAddress) : accepts ownAddress frameAddress = false := by
  rw [← Bool.not_eq_true, accepts_iff, not_or, not_or]
  exact ⟨hown, haddress, hother⟩

theorem deliver_of_filtered {f : Frame} {s : State} (h : accepts s.ownAddress f.address = false) :
    deliver f s = .next (.none, toPending s) := by
  simp only [deliver, h]
  rfl

/-- R162, R164: the handler is asked in `Pending`, with the timer disarmed. -/
theorem deliver_of_accepted {f : Frame} {s : State} (h : accepts s.ownAddress f.address = true) :
    deliver f s = if nonEmptyReply (handleAnswer s) then rxReply (handleAnswer s) (delivered f s)
      else .next (.none, delivered f s) := by
  simp only [deliver, h, if_true]
  rfl

/-- R162 for a `work` that begins with a whole frame. -/
theorem rxDispatch_of_frame {s : State} {f : Frame} {rest : List Byte}
    (hw : s.work = Memory.ofBytes (frameBytes f ++ rest)) (hwl : s.workLen = f.size.toNat + 4 + rest.length)
    (hf : f.payload.length = f.size.toNat) :
    rxDispatch s = if check s.crcTable (frameBytes f) then deliver f s else .next (.crc, abort s) := by
  have hlen : s.workLen = (frameBytes f ++ rest).length := by rw [hwl, List.length_append, frameBytes_length, hf]
  rw [rxDispatch, receivedFrame_ofBytes hw hlen hf]

/-- Settles O25. -/
theorem rxDispatchByChecksumAndFilter : Obligations.RxDispatchByChecksumAndFilter := by
  intro s f rest hw hwl hf
  have hdispatch := rxDispatch_of_frame hw hwl hf
  refine ⟨fun hbad => ?bad, fun hgood hown haddress hother => ?filtered, fun hgood hmine => ?accepted⟩
  case bad =>
    rw [exec_rxDispatch, hdispatch, if_neg (mt (check_iff_fold _ _).mp hbad)]
    rfl
  case filtered =>
    rw [exec_rxDispatch, hdispatch, if_pos ((check_iff_fold _ _).mpr hgood),
      deliver_of_filtered (accepts_eq_false hown haddress hother)]
    rfl
  case accepted =>
    rw [if_pos ((check_iff_fold _ _).mpr hgood), deliver_of_accepted (accepts_iff.mpr hmine)] at hdispatch
    refine ⟨fun hnone => ?_, fun hdata hsize => ?_⟩
    · rw [exec_rxDispatch, hdispatch, nonEmptyReply_eq_false hnone]
      rfl
    · rw [exec_rxDispatch, hdispatch, if_pos ((nonEmptyReply_iff _).mpr ⟨hdata, hsize⟩), exec_rxReply]
      rfl

/-- R164: RX.REPLY is the nested CALL under the header of the reply. -/
theorem rxReply_of_header {s : State} {address command : Byte} {rest : List Byte} (reply : Reply)
    (hw : s.work = Memory.ofBytes (address :: command :: rest)) (hwl : s.workLen = rest.length + 2) :
    rxReply reply s =
      callCore (replyHeaderOf s.replyHeader address command s.ownAddress).1
        (replyHeaderOf s.replyHeader address command s.ownAddress).2 reply.size (replyData reply) s := by
  have h0 : workByte s 0 = some address := workByte_ofBytes hw hwl 0
  have h1 : workByte s 1 = some command := workByte_ofBytes hw hwl 1
  simp only [rxReply, h0, h1]

/-- Settles O27: the cases of CALL, under that header. -/
theorem rxReplyRunsTheNestedCall : Obligations.RxReplyRunsTheNestedCall := by
  intro s address command rest reply hw hwl d h stuffed
  have hheader : replyHeaderOf s.replyHeader address command s.ownAddress = h := by
    change _ = if s.replyHeader = .echo then _ else _
    cases s.replyHeader <;> rfl
  have hreply := rxReply_of_header reply hw hwl
  rw [hheader] at hreply
  have hexec : exec (.rxReply reply) s = hand (callCore h.1 h.2 reply.size d s) .code :=
    (exec_rxReply reply s).trans (congrArg (hand · Output.code) hreply)
  refine ⟨fun hshort => ?short, fun hdata => ⟨fun hbig => ?oversized, fun hle hs => ?busy, fun hle hs hfits => ?sent,
    fun hle hs hlong => ?overflow⟩⟩
  case short => rw [hexec, callCore_of_short hshort]; rfl
  case oversized => rw [hexec, callCore_of_oversized hbig hdata]; rfl
  case busy => rw [hexec, callCore_of_receiving _ _ hle hdata hs]; rfl
  case sent =>
    rw [hexec, callCore_of_pending hle hdata hs, transmit_of_fits hfits]
    rfl
  case overflow =>
    obtain ⟨-, hlen, hdense⟩ := unspecifiedTx_bounds s
    refine ⟨handOut (.code .overflow) (unspecifiedTx s), ?_, rfl, hlen, hdense⟩
    rw [hexec, callCore_of_pending hle hdata hs, transmit_of_overflow hlong]
    rfl

/-! ### The stops -/

/-- R27: a byte at or beyond the fill length is unspecified. -/
theorem workByte_eq_none {s : State} {i : Nat} (h : s.workLen ≤ i) : workByte s i = none := if_neg (by omega)

theorem rxDispatch_of_no_frame {s : State} (h : receivedFrame s = none) :
    rxDispatch s = .fault (.unspecifiedByte .work s.workLen) := by
  rw [rxDispatch, h]

/-- Settles O29. -/
theorem assemblerStopsByName : Obligations.AssemblerStopsByName := by
  intro s
  refine ⟨fun now h => ?pending, fun hroom h => ?overrun, fun h => ?noSize, fun size hsize h => ?noFrame,
    fun reply h => ?noHeader⟩
  case pending => rw [exec_rxPending, rxPending, callRead_of_overrun h]; rfl
  case overrun =>
    have hread := rxReadDestuff_of_overrun hroom h
    refine ⟨?_, ?_, ?_⟩
    · rw [exec_rxReadDestuff, hread]; rfl
    · rw [exec_rxHeader, rxHeader, hread]; rfl
    · rw [exec_rxComplete, rxComplete, hread]; rfl
  case noSize =>
    have hnone : receivedFrame s = none := by rw [receivedFrame, workByte_eq_none h]
    rw [exec_rxDispatch, rxDispatch_of_no_frame hnone]
    rfl
  case noFrame =>
    have hslice : workSlice s 0 (Config.headerSize + size.toNat + Config.crcSize) = none :=
      if_neg (by simp only [Config.headerSize, Config.crcSize]; omega)
    have hnone : receivedFrame s = none := by simp only [receivedFrame, hsize, hslice, Option.bind_none]
    rw [exec_rxDispatch, rxDispatch_of_no_frame hnone]
    rfl
  case noHeader =>
    rw [exec_rxReply, rxReply, workByte_eq_none h]
    cases workByte s 0 <;> rfl

end Sys2Proof.Machine
end

section
/-! What POLL answers in each of its cases (spec/43_frame_assembler.md R151 to R164): the clock sample and the timeout
first, then the operation of the state. -/

namespace Sys2Proof.Machine

section
variable {s : State}

/-- R151: the timeout comes before everything else. -/
theorem pollCore_of_expired (h : expired (nowAnswer s) s = true) :
    pollCore s = .next (.timeout, abort (afterNow s)) := by
  obtain ⟨-, hc⟩ | ⟨hlive, -⟩ := pollWith_cases (nowAnswer s) (afterNow s)
  · exact hc
  · exact absurd (h.symm.trans hlive) (by decide)

theorem pollCore_of_pending (h : expired (nowAnswer s) s = false) (hs : s.state = .pending) :
    pollCore s = rxPending (nowAnswer s) (afterNow s) := by
  have hlive : expired (nowAnswer s) (afterNow s) = false := h
  simp [pollCore, pollWith, hlive, hs]

theorem pollCore_of_header (h : expired (nowAnswer s) s = false) (hs : s.state = .headerReceiving) :
    pollCore s = rxHeader (afterNow s) := by
  have hlive : expired (nowAnswer s) (afterNow s) = false := h
  simp [pollCore, pollWith, hlive, hs]

theorem pollCore_of_complete (h : expired (nowAnswer s) s = false) (hs : s.state = .completeReceiving) :
    pollCore s = rxComplete (afterNow s) := by
  have hlive : expired (nowAnswer s) (afterNow s) = false := h
  simp [pollCore, pollWith, hlive, hs]

/-- R156, R160, R161: both receiving states pass on what RX.READ_DESTUFF answers without progress, and its stops. -/
theorem pollCore_of_receiving (h : expired (nowAnswer s) s = false) (hs : s.state ≠ .pending) :
    ∃ k, pollCore s = andThen (rxReadDestuff (afterNow s)) k ∧ (∀ u, k .noProgress u = .next (.none, u)) ∧
      ∀ e u, k (.aborted e) u = .next (e, u) := by
  cases hstate : s.state with
  | pending => exact absurd hstate hs
  | headerReceiving => exact ⟨headerStep, pollCore_of_header h hstate, fun _ => rfl, fun _ _ => rfl⟩
  | completeReceiving => exact ⟨completeStep, pollCore_of_complete h hstate, fun _ => rfl, fun _ _ => rfl⟩

/-- An abort of RX.READ_DESTUFF is POLL's answer. -/
theorem pollCore_of_aborted {e : ErrorCode} {u : State} (h : expired (nowAnswer s) s = false) (hs : s.state ≠ .pending)
    (hread : rxReadDestuff (afterNow s) = .next (.aborted e, u)) : pollCore s = .next (e, u) := by
  obtain ⟨k, hpoll, -, haborted⟩ := pollCore_of_receiving h hs
  rw [hpoll, hread, andThen_next, haborted]

theorem exec_poll_of_next {e : ErrorCode} {u : State} (hinit : s.initialised = true) (h : pollCore s = .next (e, u)) :
    exec .poll s = .next (returnCode e u) := publicReturn_of_next hinit h

end

/-- Settles O10. -/
theorem pollInPending : Obligations.PollInPending := by
  intro s hinit hs htimer u
  have hpoll := pollCore_of_pending (expired_of_disarmed htimer _) hs
  refine ⟨fun h => ?nothing, fun h => ?preamble, fun b hb h => ?other⟩
  case nothing =>
    rw [rxPending_of_nothing h] at hpoll
    rw [exec_poll_of_next hinit hpoll]
    simp [u, returnCode, h]
  case preamble =>
    rw [rxPending_of_preamble h] at hpoll
    rw [exec_poll_of_next hinit hpoll, beginFrame_eq]
    simp [u, returnCode, h]
  case other =>
    rw [rxPending_of_other hb h] at hpoll
    rw [exec_poll_of_next hinit hpoll]
    simp [u, returnCode, h]

/-- Settles O11. -/
theorem pollTimesOutBeforeReading : Obligations.PollTimesOutBeforeReading := by
  intro s hinit harmed hlate
  have hexpired : expired (nowAnswer s) s = true := by
    rw [expired_of_armed harmed, decide_eq_true_iff]
    split_ifs at hlate with hle
    · rwa [elapsed_of_le hle]
    · rwa [elapsed_of_lt (by omega)]
  rw [exec_poll_of_next hinit (pollCore_of_expired hexpired), abort_eq]
  simp [returnCode, afterNow]

/-- Settles O12. -/
theorem pollInTheReceivingStates : Obligations.PollInTheReceivingStates := by
  intro s hinit hs hlive
  obtain ⟨k, hpoll, hsilent, -⟩ := pollCore_of_receiving hlive hs
  refine ⟨fun hroom h => ?silence, fun t e ht hout => ?aborted, fun x hx => ?refused,
    fun held ws new body decoded hold h => ⟨fun hstate hlt => ?header, fun size hstate hsize hlt => ?payload⟩⟩
  case silence =>
    have hread : rxReadDestuff (afterNow s) = .next (.noProgress, afterRead s.need.toNat (afterNow s)) :=
      rxReadDestuff_of_silence hroom h
    rw [hread, andThen_next, hsilent] at hpoll
    exact exec_poll_of_next hinit hpoll
  case aborted =>
    obtain ⟨r, u, hread, rfl⟩ := (hand_next_iff _ _ _).mp ht
    obtain rfl := output_eq_code hout
    have hexec := exec_poll_of_next hinit (pollCore_of_aborted hlive hs hread)
    exact hexec
  case refused =>
    have hread := (hand_refused_iff (rxReadDestuff (afterNow s)) _ x).mp hx
    rw [exec_poll, hpoll, hread, andThen_refused, publicReturn_of_refused hinit]
  case header =>
    have hread := rxHeader_of_read (rxReadDestuff_of_decodes h)
    rw [headerStep_of_short hlt] at hread
    exact exec_poll_of_next hinit ((pollCore_of_header hlive hstate).trans hread)
  case payload =>
    have hbyte : workByte (afterDecode (afterNow s) ws decoded hold) 2 = some size :=
      (workByte_ofBytes rfl rfl 2).trans hsize
    have hread := rxComplete_of_read (rxReadDestuff_of_decodes h)
    rw [completeStep_of_size hbyte] at hread
    exact exec_poll_of_next hinit ((pollCore_of_complete hlive hstate).trans (hread.trans (if_pos hlt)))

/-- R160, where the bytes that decode complete the header. -/
theorem pollCore_of_header_done {s : State} {held ws new body decoded : List Byte} {hold : Bool} {a c size : Byte}
    (hlive : expired (nowAnswer s) s = false) (hs : s.state = .headerReceiving)
    (h : Decodes (afterNow s) held ws new body decoded hold) (hthree : ws ++ decoded = [a, c, size]) :
    pollCore s =
      if 252 < size.toNat then .next (.invalidData, abort (afterDecode (afterNow s) ws decoded hold))
      else .next (.none, { afterDecode (afterNow s) ws decoded hold with
        state := .completeReceiving, need := BitVec.ofNat 8 (size.toNat + 1) }) := by
  have hbyte : workByte (afterDecode (afterNow s) ws decoded hold) 2 = some size := by
    rw [workByte_ofBytes (ws := ws ++ decoded) rfl rfl, hthree]
    rfl
  rw [pollCore_of_header hlive hs, rxHeader_of_read (rxReadDestuff_of_decodes h),
    headerStep_of_three (congrArg List.length hthree) hbyte]

/-- R161, R162, where they complete the frame: its checksum decides, then RX.FILTER and the handler. -/
theorem pollCore_of_frame_done {s : State} {held ws new body decoded : List Byte} {hold : Bool} {f : Frame}
    (hlive : expired (nowAnswer s) s = false) (hs : s.state = .completeReceiving)
    (h : Decodes (afterNow s) held ws new body decoded hold) (hf : f.payload.length = f.size.toNat)
    (hframe : ws ++ decoded = frameBytes f) :
    pollCore s =
      if check s.crcTable (frameBytes f) then deliver f (afterDecode (afterNow s) ws decoded hold)
      else .next (.crc, abort (afterDecode (afterNow s) ws decoded hold)) := by
  have hwork : (afterDecode (afterNow s) ws decoded hold).work = Memory.ofBytes (frameBytes f ++ []) := by
    rw [List.append_nil, ← hframe]
    rfl
  have hlen : (afterDecode (afterNow s) ws decoded hold).workLen = f.size.toNat + 4 := by
    rw [← hf, ← frameBytes_length, ← hframe]
    rfl
  have hbyte : workByte (afterDecode (afterNow s) ws decoded hold) 2 = some f.size := by
    rw [workByte_ofBytes (ws := ws ++ decoded) rfl rfl, hframe]
    rfl
  rw [pollCore_of_complete hlive hs, rxComplete_of_read (rxReadDestuff_of_decodes h), completeStep_of_size hbyte,
    if_neg (by omega)]
  exact rxDispatch_of_frame (s := { afterDecode (afterNow s) ws decoded hold with need := 0 }) hwork hlen hf

/-- Settles O14. -/
theorem pollFinishesHeaderOrFrame : Obligations.PollFinishesHeaderOrFrame := by
  intro s held ws new body decoded hold hinit hlive h v aborted
  refine ⟨fun a c size hs hthree => ?header, fun f hs hf hframe => ?frame⟩
  case header =>
    have hpoll := pollCore_of_header_done hlive hs h hthree
    exact ⟨fun hle => exec_poll_of_next hinit (hpoll.trans (if_neg (by omega))),
      fun hgt => exec_poll_of_next hinit (hpoll.trans (if_pos hgt))⟩
  case frame =>
    have hpoll := pollCore_of_frame_done hlive hs h hf hframe
    refine ⟨fun hbad => ?bad, fun hgood hown haddress hother => ?filtered, fun hgood hmine => ?accepted⟩
    case bad => exact exec_poll_of_next hinit (hpoll.trans (if_neg (mt (check_iff_fold _ _).mp hbad)))
    case filtered =>
      rw [if_pos ((check_iff_fold _ _).mpr hgood)] at hpoll
      exact exec_poll_of_next hinit (hpoll.trans (deliver_of_filtered (accepts_eq_false hown haddress hother)))
    case accepted =>
      intro w
      have hdeliver : deliver f v = if nonEmptyReply (handleAnswer v) then rxReply (handleAnswer v) w
          else .next (.none, w) := deliver_of_accepted (accepts_iff.mpr hmine)
      rw [if_pos ((check_iff_fold _ _).mpr hgood)] at hpoll
      refine ⟨fun hnone => ?_, fun hdata hsize => ?_⟩
      · rw [nonEmptyReply_eq_false hnone] at hdeliver
        exact exec_poll_of_next hinit (hpoll.trans hdeliver)
      · have hreply : pollCore s = rxReply (handleAnswer v) w :=
          hpoll.trans (hdeliver.trans (if_pos ((nonEmptyReply_iff _).mpr ⟨hdata, hsize⟩)))
        refine ⟨fun t e ht hout => ?_, fun x hx => ?_⟩
        · obtain ⟨c, u, hr, rfl⟩ := (hand_next_iff _ _ _).mp ht
          obtain rfl : c = e := Output.code.inj hout
          have hexec := exec_poll_of_next hinit (hreply.trans hr)
          exact hexec
        · have hr := (hand_refused_iff (rxReply (handleAnswer v) w) _ x).mp hx
          rw [exec_poll, hreply, hr, publicReturn_of_refused hinit]

end Sys2Proof.Machine
end

section
/-! Proofs about decoded frames and the step (spec/30_encoding.md R81 to R94, spec/20_memory.md R56; log entries 1, 13,
26). -/

namespace Sys2Proof.Machine

/-! ### Decoded bytes -/

theorem exec_frm (f : Frame) (s : State) : exec (.frm f) s = hand (decodedCore (frameBytes f) s) .code := rfl

/-- R56: more bytes than `work` holds. -/
theorem decodedCore_of_long {bytes : List Byte} {s : State} (h : 256 < bytes.length) :
    decodedCore bytes s = .next (.invalidData, abort s) := if_pos h

/-- R160: without a size byte the header is not complete. -/
theorem decodedCore_of_short {bytes : List Byte} {s : State} (h : bytes.length < 3) :
    decodedCore bytes s =
      .next (.none, setNeed (3 - bytes.length) { holdBytes bytes s with state := .headerReceiving }) := by
  obtain ⟨hlong, -⟩ | ⟨-, hc⟩ | ⟨-, size, hsize, -⟩ := decodedCore_cases bytes s
  · omega
  · exact hc
  · have := (List.getElem?_eq_some_iff.mp hsize).1
    omega

/-- R160: a size above 252 aborts, whatever follows. -/
theorem decodedCore_of_oversized {bytes : List Byte} {s : State} {size : Byte} (hsize : bytes[2]? = some size)
    (h : 252 < size.toNat) : decodedCore bytes s = .next (.invalidData, abort s) := by
  obtain ⟨-, hc⟩ | ⟨hshort, -⟩ | ⟨-, size', hsize', ⟨-, hc⟩ | ⟨hle, -⟩ | ⟨hle, -⟩⟩ := decodedCore_cases bytes s
  · exact hc
  · have := (List.getElem?_eq_some_iff.mp hsize).1
    omega
  · exact hc
  · rw [hsize, Option.some.injEq] at hsize'; subst hsize'; omega
  · rw [hsize, Option.some.injEq] at hsize'; subst hsize'; omega

/-- R161, R162: a legal size waits for what is missing, or the frame is dispatched. -/
theorem decodedCore_of_legal {bytes : List Byte} {s : State} {size : Byte} (hsize : bytes[2]? = some size)
    (hle : size.toNat ≤ 252) (hlen : bytes.length ≤ 256) :
    decodedCore bytes s = if bytes.length < 3 + size.toNat + 1
      then .next (.none,
        setNeed (3 + size.toNat + 1 - bytes.length) { holdBytes bytes s with state := .completeReceiving })
      else rxDispatch (holdBytes bytes s) := by
  obtain ⟨hlong, -⟩ | ⟨hshort, -⟩ | ⟨-, size', hsize', hcases⟩ := decodedCore_cases bytes s
  · omega
  · have := (List.getElem?_eq_some_iff.mp hsize).1
    omega
  rw [hsize, Option.some.injEq] at hsize'
  subst hsize'
  obtain ⟨hgt, -⟩ | ⟨-, hlt, hc⟩ | ⟨-, hge, hc⟩ := hcases
  · omega
  · rw [hc, if_pos hlt]
  · rw [hc, if_neg (by omega)]

/-! ### Well-formed frames -/

theorem wellFormed_iff (f : Frame) : f.wellFormed = true ↔
    f.payload.length = f.size.toNat ∧ f.size.toNat ≤ 252 ∧
      f.crc = gen (buildTable Config.poly) f.address f.command f.size f.payload := by
  simp only [Frame.wellFormed, Bool.and_eq_true, decide_eq_true_eq, and_assoc]
  rfl

/-- R87, R115: the checksum of a well-formed frame is good on this hardware's table. -/
theorem check_of_wellFormed {f : Frame} (h : f.wellFormed = true) :
    check (buildTable Config.poly) (frameBytes f) = true := by
  obtain ⟨-, -, hcrc⟩ := (wellFormed_iff f).mp h
  exact (check_iff f.address f.command f.size f.payload f.crc).mpr hcrc

/-- A frame that the filter accepts and the handler does not answer is handed over. -/
theorem deliver_of_silent {f : Frame} {s : State} (h : accepts s.ownAddress f.address = true)
    (hsilent : nonEmptyReply (handleAnswer s) = false) : deliver f s = .next (.none, delivered f s) := by
  rw [deliver_of_accepted h, hsilent]
  rfl

/-- Settles O48. -/
theorem decodedFrameIsDispatched : Obligations.DecodedFrameIsDispatched := by
  intro s f
  have hlen := frameBytes_length f
  have hsize : (frameBytes f)[2]? = some f.size := rfl
  refine ⟨fun hwf htable haccepts hsilent => ?delivered, fun hle hwhole hfits => ?dispatched,
    fun hle hmissing => ?incomplete, fun habort => ?aborted⟩
  case delivered =>
    obtain ⟨hpayload, hle, -⟩ := (wellFormed_iff f).mp hwf
    have hcheck : check s.crcTable (frameBytes f) = true := htable ▸ check_of_wellFormed hwf
    have hdispatch := rxDispatch_of_frame (s := holdBytes (frameBytes f) s) (f := f) (rest := [])
      (by simp) (by simp [hpayload]) hpayload
    rw [holdBytes_crcTable, if_pos hcheck,
      deliver_of_silent (s := holdBytes (frameBytes f) s) haccepts hsilent] at hdispatch
    rw [exec_frm, decodedCore_of_legal hsize hle (by omega), if_neg (by omega), hdispatch, holdBytes_eq, hlen, hpayload]
    rfl
  case dispatched =>
    rw [exec_frm, decodedCore_of_legal hsize hle (by omega), if_neg (by omega), holdBytes_eq, hlen, exec_rxDispatch]
  case incomplete =>
    have hneed : 3 + f.size.toNat + 1 - (f.payload.length + 4) = f.size.toNat - f.payload.length := by omega
    rw [exec_frm, decodedCore_of_legal hsize hle (by omega), if_pos (by omega), holdBytes_eq, hlen, hneed]
    rfl
  case aborted =>
    obtain hbig | hlong := habort
    · rw [exec_frm, decodedCore_of_oversized hsize hbig]
      rfl
    · rw [exec_frm, decodedCore_of_long (by omega)]
      rfl

/-! ### The step -/

theorem step_of_no_word {s : State} (h : s.port = []) : step s = .next s := by
  simp only [step, fetch, h]

theorem step_of_decoded {s : State} {w : PortWord} {rest : List PortWord} {i : Instr} (h : s.port = w :: rest)
    (hd : decode w = .ok i) : step s = exec i { s with port := rest } := by
  simp only [step, fetch, h, hd]

theorem step_of_undecoded {s : State} {w : PortWord} {rest : List PortWord} {e : DecodeError} (h : s.port = w :: rest)
    (hd : decode w = .error e) : step s = meetUndecoded e w { s with port := rest } := by
  simp only [step, fetch, h, hd]

/-- Settles O58: by the word's encoding space, and for decoded bytes by the lemmas of `decodedCore`. -/
theorem stepRunsTheDecodedOperation : Obligations.StepRunsTheDecodedOperation := by
  refine ⟨fun s w rest i hport hd => step_of_decoded hport hd, fun s hport => step_of_no_word hport, ?_⟩
  intro s w rest e hport hd u
  have hstep := step_of_undecoded hport hd
  refine ⟨fun hreserved => ?reserved, fun bytes hlink => ?link, fun bytes hframe => ?decoded⟩
  case reserved =>
    obtain ⟨sel, address, command, size, data, rfl⟩ | ⟨code, rfl⟩ | ⟨code, rfl⟩ := hreserved
    all_goals exact hstep
  case link =>
    obtain rfl | rfl := hlink
    all_goals exact hstep
  case decoded =>
    intro v
    subst hframe
    have hcore : step s = hand (decodedCore bytes u) .code := hstep
    have hold : holdBytes bytes u = v := holdBytes_eq bytes u
    refine ⟨fun hshort => ?_, fun size hsize => ⟨fun hbig => ?_, fun hle hlt => ?_, fun hle hge hfits => ?_⟩,
      fun hlong => ?_⟩
    · rw [hcore, decodedCore_of_short hshort, hold]
      rfl
    · rw [hcore, decodedCore_of_oversized hsize hbig]
      rfl
    · rw [hcore, decodedCore_of_legal hsize hle (by omega), if_pos hlt, hold]
      rfl
    · rw [hcore, decodedCore_of_legal hsize hle hfits, if_neg (by omega), hold]
      rfl
    · rw [hcore, decodedCore_of_long hlong]
      rfl

end Sys2Proof.Machine
end

section
/-! What happens when the engine meets bytes of the link one after the other (spec/30_encoding.md R83 to R85, R90; log
entry 12): the POLL of one byte, and the bytes met in `Pending`. -/

namespace Sys2Proof.Machine

/-! ### The environment of the POLLs -/

/-- The context after `n` clock samples: the observables have grown by `events` and hold `out`, and nothing else has
changed. -/
def polled (n : Nat) (events : List Event) (out : Output) (s : State) : State :=
  { s with
    nows := s.nows.drop n, freeCount := s.freeCount + (n - s.nows.length), out := out, trace := s.trace ++ events }

theorem polled_polled (m n : Nat) (before events : List Event) (o out : Output) (s : State) :
    polled n events out (polled m before o s) = polled (m + n) (before ++ events) out s := by
  have hfree : s.freeCount + (m - s.nows.length) + (n - (s.nows.length - m)) =
      s.freeCount + (m + n - s.nows.length) := by omega
  simp only [polled, List.drop_drop, List.length_drop, hfree, List.append_assoc]

theorem returnCode_polled (n : Nat) (events : List Event) (out : Output) (e : ErrorCode) (s : State) :
    returnCode e (polled n events out s) = polled n (events ++ [.returned e]) (.code e) s := by
  simp only [returnCode, polled, List.append_assoc]

/-- One clock sample takes the listed answer, or a free one. -/
theorem freeCount_polled_one (s : State) :
    s.freeCount + (1 - s.nows.length) = if s.nows.isEmpty then s.freeCount + 1 else s.freeCount := by
  cases s.nows <;> simp

theorem clockAnswer_polled (n k : Nat) (events : List Event) (out : Output) (s : State) :
    clockAnswer (polled n events out s) k = clockAnswer s (n + k) := by
  simp only [clockAnswer, polled, List.getElem?_drop, List.length_drop]
  cases hv : s.nows[n + k]? with
  | some v => rfl
  | none =>
    have hle : s.nows.length ≤ n + k := List.getElem?_eq_none_iff.mp hv
    have hfree : s.freeCount + (n - s.nows.length) + (k - (s.nows.length - n)) =
        s.freeCount + (n + k - s.nows.length) := by omega
    simp only [hfree]

theorem deadlineKept_polled {n k : Nat} {start : U32} {events : List Event} {out : Output} {s : State}
    (h : deadlineKept (n + k) start s) : deadlineKept k start (polled n events out s) := by
  intro j hj
  rw [clockAnswer_polled]
  exact h (n + j) (by omega)

theorem deadlineKept_mono {m n : Nat} {start : U32} {s : State} (h : deadlineKept n start s) (hle : m ≤ n) :
    deadlineKept m start s := fun k hk => h k (by omega)

/-! ### One byte -/

theorem readAnswer_offerByte (b : Byte) (max : Nat) (s : State) : readAnswer max (afterNow (offerByte b s)) = [b] := rfl

/-- The POLL's clock sample, and its READ of the one byte that was offered. -/
theorem afterRead_offerByte (b : Byte) (max : Nat) (s : State) :
    afterRead max (afterNow (offerByte b s)) = polled 1 [.now (nowAnswer s), .read max [b]] s.out s := by
  rw [afterRead_listed (s := afterNow (offerByte b s)) (n := 1) (ns := s.counts) rfl]
  simp only [afterNow_trace, List.append_assoc, polled, freeCount_polled_one, List.drop_one]
  rfl

/-- A POLL that answers and has taken the byte is all that meeting it is. -/
theorem meetByte_of_poll {b : Byte} {s u : State} {e : ErrorCode} (hinit : s.initialised = true)
    (h : pollCore (offerByte b s) = .next (e, u)) (hrx : u.rx = s.rx) : meetByte b s = .next (returnCode e u) := by
  have hpoll : hostPoll (offerByte b s) = .next (returnCode e u) := publicReturn_of_next hinit h
  simp only [meetByte, hpoll, returnCode_rx, hrx, lt_irrefl, if_false]

theorem meetBytes_cons_of_next {b : Byte} {s u : State} (bs : List Byte) (h : meetByte b s = .next u) :
    meetBytes (b :: bs) s = meetBytes bs u := by
  simp only [meetBytes, h]

theorem meetBytes_singleton {b : Byte} {s t : State} (h : meetByte b s = .next t) : meetBytes [b] s = .next t :=
  meetBytes_cons_of_next [] h

/-! ### In `Pending` -/

section
variable {s : State}

/-- R153: the preamble starts a frame. -/
theorem meetByte_preamble_of_pending (hinit : s.initialised = true) (hs : s.state = .pending)
    (htimer : s.timerStart = 0) : meetByte Config.preamble s = .next (returnCode .none
      (beginFrame (nowAnswer s) (polled 1 [.now (nowAnswer s), .read 1 [Config.preamble]] s.out s))) := by
  refine meetByte_of_poll hinit ?_ rfl
  rw [pollCore_of_pending (s := offerByte Config.preamble s) (expired_of_disarmed htimer _) hs,
    rxPending_of_preamble (readAnswer_offerByte _ _ _), afterRead_offerByte]
  rfl

/-- R154: any other byte is discarded. -/
theorem meetByte_other_of_pending {b : Byte} (hb : b ≠ Config.preamble) (hinit : s.initialised = true)
    (hs : s.state = .pending) (htimer : s.timerStart = 0) :
    meetByte b s = .next (returnCode .invalidData (polled 1 [.now (nowAnswer s), .read 1 [b]] s.out s)) := by
  refine meetByte_of_poll hinit ?_ rfl
  rw [pollCore_of_pending (s := offerByte b s) (expired_of_disarmed htimer _) hs,
    rxPending_of_other hb (readAnswer_offerByte _ _ _), afterRead_offerByte]

end

/-- R154, R158: bytes between frames, one after the other, each discarded. -/
theorem meetBytes_others_of_pending (b : Byte) (bs : List Byte) {s : State} (h : ∀ x ∈ b :: bs, x ≠ Config.preamble)
    (hinit : s.initialised = true) (hs : s.state = .pending) (htimer : s.timerStart = 0) :
    ∃ n events, meetBytes (b :: bs) s = .next (polled n events (.code .invalidData) s) := by
  induction bs generalizing b s with
  | nil =>
    have hb := meetByte_other_of_pending (h b (by simp)) hinit hs htimer
    rw [returnCode_polled] at hb
    exact ⟨1, _, meetBytes_singleton hb⟩
  | cons c cs ih =>
    have hb := meetByte_other_of_pending (h b (by simp)) hinit hs htimer
    rw [returnCode_polled] at hb
    obtain ⟨n, events, hmeet⟩ :=
      ih c (fun x hx => h x (List.mem_cons_of_mem b hx)) (s := polled 1 _ _ s) hinit hs htimer
    exact ⟨1 + n, _, (meetBytes_cons_of_next _ hb).trans (hmeet.trans (congrArg _ (polled_polled ..)))⟩

/-- Settles O45: each symbol is the bytes it is met as. -/
theorem symbolsMetInPending : Obligations.SymbolsMetInPending := by
  intro s hinit hs htimer
  refine ⟨?preamble, fun i hi => ?others⟩
  case preamble =>
    refine (meetBytes_singleton (meetByte_preamble_of_pending hinit hs htimer)).trans ?_
    simp only [returnCode, beginFrame_eq, polled, freeCount_polled_one, List.drop_one, List.append_assoc]
    rfl
  case others =>
    obtain ⟨b, bs, hbytes, hexec⟩ :
        ∃ b bs, (∀ x ∈ b :: bs, x ≠ Config.preamble) ∧ exec i s = meetBytes (b :: bs) s := by
      obtain ⟨b, hb, rfl⟩ | rfl | rfl | ⟨m, hm, rfl⟩ := hi
      · exact ⟨b, [], List.forall_mem_singleton.mpr hb, rfl⟩
      · exact ⟨Config.esc, [Config.markA], by decide, rfl⟩
      · exact ⟨Config.esc, [Config.markB], by decide, rfl⟩
      · exact ⟨Config.esc, [m], List.forall_mem_cons.mpr ⟨by decide, List.forall_mem_singleton.mpr hm⟩, rfl⟩
    obtain ⟨n, events, hmeet⟩ := meetBytes_others_of_pending b bs hbytes hinit hs htimer
    exact ⟨_, hexec.trans hmeet, rfl, rfl⟩

end Sys2Proof.Machine
end

section
/-! What happens when the engine meets bytes of the link in a receiving state (spec/43_frame_assembler.md R155 to R162;
log entry 12): a reception in progress is determined by the decoded bytes so far, and each symbol takes it one byte
further. -/

namespace Sys2Proof.Machine

/-! ### A reception in progress -/

/-- How many decoded bytes are missing: of the header (R160), or of the frame whose size byte has come (R161). -/
def missing (ws : List Byte) : Nat :=
  match ws[2]? with
  | none => 3 - ws.length
  | some size => 3 + size.toNat + 1 - ws.length

/-- The state in which these bytes leave the engine (R160). -/
def phase (ws : List Byte) : RxState := if ws.length < 3 then .headerReceiving else .completeReceiving

/-- Decoded bytes of a frame that is not whole yet, of a legal size. -/
structure Midway (ws : List Byte) : Prop where
  legal : ∀ size : Byte, ws[2]? = some size → size.toNat ≤ 252
  more : 0 < missing ws

/-- The context in which `ws` have been decoded and `held` is withheld, of a frame begun at `start`. -/
def collecting (start : U32) (held ws : List Byte) (s : State) : State :=
  { s with
    state := phase ws, need := BitVec.ofNat 8 (missing ws), timerStart := start, intake := Memory.ofBytes held,
    intakeLen := held.length, work := Memory.ofBytes ws, workLen := ws.length }

theorem missing_of_short {ws : List Byte} (h : ws.length < 3) : missing ws = 3 - ws.length := by
  rw [missing, List.getElem?_eq_none (by omega)]

theorem missing_of_size {ws : List Byte} {size : Byte} (h : ws[2]? = some size) :
    missing ws = 3 + size.toNat + 1 - ws.length := by
  rw [missing, h]

theorem phase_of_short {ws : List Byte} (h : ws.length < 3) : phase ws = .headerReceiving := if_pos h

theorem phase_of_long {ws : List Byte} (h : ¬ ws.length < 3) : phase ws = .completeReceiving := if_neg h

theorem phase_ne_pending (ws : List Byte) : phase ws ≠ .pending := by
  unfold phase
  split_ifs <;> decide

theorem exists_size {ws : List Byte} (h : ¬ ws.length < 3) : ∃ size, ws[2]? = some size :=
  ⟨ws[2], List.getElem?_eq_getElem _⟩

/-- A reception in progress holds fewer bytes than `work` can (R55), and misses at most 253 (R35). -/
theorem Midway.bounds {ws : List Byte} (h : Midway ws) : ws.length < 256 ∧ missing ws ≤ 253 := by
  have hmore := h.more
  by_cases hshort : ws.length < 3
  · rw [missing_of_short hshort]; omega
  · obtain ⟨size, hsize⟩ := exists_size hshort
    have hle := h.legal size hsize
    rw [missing_of_size hsize] at hmore ⊢
    omega

theorem Midway.need_toNat {ws : List Byte} (h : Midway ws) : (BitVec.ofNat 8 (missing ws)).toNat = missing ws := by
  rw [BitVec.toNat_ofNat]
  exact Nat.mod_eq_of_lt (by have := h.bounds; omega)

/-- One more byte, where two are missing: one fewer is missing, in the same state. -/
theorem Midway.concat {ws : List Byte} (h : Midway ws) (htwo : 2 ≤ missing ws) (v : Byte) :
    Midway (ws ++ [v]) ∧ missing (ws ++ [v]) + 1 = missing ws ∧ phase (ws ++ [v]) = phase ws := by
  have hlen : (ws ++ [v]).length = ws.length + 1 := List.length_append
  by_cases hshort : ws.length < 3
  · rw [missing_of_short hshort] at htwo
    have hshort' : (ws ++ [v]).length < 3 := by omega
    have hmissing := missing_of_short hshort'
    refine ⟨⟨fun size hsize => ?_, by omega⟩, ?_, ?_⟩
    · rw [List.getElem?_eq_none (by omega)] at hsize; cases hsize
    · rw [missing_of_short hshort]; omega
    · rw [phase_of_short hshort, phase_of_short hshort']
  · obtain ⟨size, hsize⟩ := exists_size hshort
    have hsize' : (ws ++ [v])[2]? = some size := by rw [List.getElem?_append_left (by omega), hsize]
    have hmissing := missing_of_size hsize'
    rw [missing_of_size hsize] at htwo
    refine ⟨⟨fun z hz => ?_, by omega⟩, ?_, ?_⟩
    · rw [hsize'] at hz; exact h.legal z (hsize.trans hz)
    · rw [missing_of_size hsize]; omega
    · rw [phase_of_long hshort, phase_of_long (by omega)]

/-- R35: a receiving state with nothing withheld is a reception in progress of the bytes in `work`. -/
theorem Invariants.eq_collecting {s : State} {ws : List Byte} (h : Invariants s) (hs : s.state ≠ .pending)
    (hheld : s.intakeLen = 0) (hw : s.work = Memory.ofBytes ws) :
    Midway ws ∧ s = collecting s.timerStart [] ws s := by
  obtain ⟨held, ws', hi, hil, hw', hwl⟩ := h.inRange.sequences
  obtain rfl : held = [] := List.length_eq_zero_iff.mp (hil.symm.trans hheld)
  obtain rfl : ws = ws' := by
    have hsame := hw.symm.trans hw'
    exact List.ext_getElem? fun i => by rw [← Memory.read_ofBytes, hsame, Memory.read_ofBytes]
  have hform (hmid : Midway ws) (hstate : s.state = phase ws) (hneed : s.need.toNat = missing ws) :
      s = collecting s.timerStart [] ws s := by
    have hneed' : s.need = BitVec.ofNat 8 (missing ws) := BitVec.eq_of_toNat_eq (hneed.trans hmid.need_toNat.symm)
    cases s
    simp only [collecting] at *
    subst_vars
    rfl
  cases hstate : s.state with
  | pending => exact absurd hstate hs
  | headerReceiving =>
    obtain ⟨hle, hneed⟩ := h.header hstate
    have hshort : ws.length < 3 := by omega
    have hmissing := missing_of_short hshort
    have hmid : Midway ws := by
      refine ⟨fun size hsize => ?_, by omega⟩
      rw [List.getElem?_eq_none (by omega)] at hsize
      cases hsize
    exact ⟨hmid, hform hmid (by rw [hstate, phase_of_short hshort]) (by rw [hneed, hmissing, hwl])⟩
  | completeReceiving =>
    obtain ⟨size, hsize, hle, hlen, hmore, hneed⟩ := h.payload hstate
    rw [workByte_ofBytes hw hwl] at hsize
    have hmissing := missing_of_size hsize
    have hmid : Midway ws := by
      refine ⟨fun z hz => ?_, by omega⟩
      rw [hsize] at hz
      cases hz
      exact hle
    exact ⟨hmid, hform hmid (by rw [hstate, phase_of_long (by omega)]) (by rw [hneed, hmissing, hwl])⟩

/-! ### One POLL of a reception in progress -/

/-- The observables of a POLL that meets one byte and returns `NONE` without a dispatch. -/
def pollEvents (max : Nat) (b : Byte) (s : State) : List Event :=
  [.now (nowAnswer s), .read max [b], .returned .none]

/-- What such POLLs may show. -/
def quiet (v : Event) : Prop := (∃ n, v = .now n) ∨ (∃ max bytes, v = .read max bytes) ∨ v = .returned .none

theorem quiet_pollEvents (max : Nat) (b : Byte) (s : State) : ∀ v ∈ pollEvents max b s, quiet v := by
  intro v hv
  simp only [pollEvents, List.mem_cons, List.not_mem_nil, or_false] at hv
  obtain rfl | rfl | rfl := hv
  · exact .inl ⟨_, rfl⟩
  · exact .inr (.inl ⟨_, _, rfl⟩)
  · exact .inr (.inr rfl)

/-- R160, R161: bytes that decode, and finish neither more than the header nor the frame, take the reception further. -/
theorem pollCore_of_collected {s : State} {held ws new body decoded : List Byte} {hold : Bool}
    (hlive : expired (nowAnswer s) s = false) (hphase : s.state = phase ws)
    (h : Decodes (afterNow s) held ws new body decoded hold) (hstep : ws.length < 3 → (ws ++ decoded).length ≤ 3)
    (hmid : Midway (ws ++ decoded)) :
    pollCore s = .next (.none, { afterDecode (afterNow s) ws decoded hold with
      state := phase (ws ++ decoded), need := BitVec.ofNat 8 (missing (ws ++ decoded)) }) := by
  by_cases hshort : ws.length < 3
  · rw [phase_of_short hshort] at hphase
    by_cases hshort' : (ws ++ decoded).length < 3
    · have hheader := rxHeader_of_read (rxReadDestuff_of_decodes h)
      rw [headerStep_of_short hshort'] at hheader
      rw [pollCore_of_header hlive hphase, hheader, phase_of_short hshort', missing_of_short hshort', ← hphase]
      rfl
    · obtain ⟨a, c, size, hthree⟩ := List.length_eq_three.mp (Nat.le_antisymm (hstep hshort) (Nat.le_of_not_lt hshort'))
      have hle : size.toNat ≤ 252 := hmid.legal size (by rw [hthree]; rfl)
      have hmissing : missing (ws ++ decoded) = size.toNat + 1 := by
        rw [missing_of_size (size := size) (by rw [hthree]; rfl), hthree]
        simp only [List.length_cons, List.length_nil]
        omega
      rw [pollCore_of_header_done hlive hphase h hthree, if_neg (by omega), phase_of_long hshort', hmissing]
  · rw [phase_of_long hshort] at hphase
    have hlong : ¬ (ws ++ decoded).length < 3 := by rw [List.length_append]; omega
    obtain ⟨size, hsize⟩ := exists_size hlong
    have hmore := hmid.more
    rw [missing_of_size hsize] at hmore
    have hbyte : workByte (afterDecode (afterNow s) ws decoded hold) 2 = some size :=
      (workByte_ofBytes rfl rfl 2).trans hsize
    have hcomplete := rxComplete_of_read (rxReadDestuff_of_decodes h)
    have hlt : (afterDecode (afterNow s) ws decoded hold).workLen < 3 + size.toNat + 1 := Nat.sub_pos_iff_lt.mp hmore
    rw [completeStep_of_size hbyte, if_pos hlt] at hcomplete
    rw [pollCore_of_complete hlive hphase, hcomplete, phase_of_long hlong, missing_of_size hsize, ← hphase]
    rfl

section
variable {s : State} {start : U32} {held ws body decoded : List Byte} {hold : Bool} {b : Byte}

theorem expired_collecting (hlive : deadlineKept 1 start s) :
    expired (nowAnswer (offerByte b (collecting start held ws s))) (offerByte b (collecting start held ws s)) =
      false := by
  have h := hlive 0 Nat.one_pos
  rw [clockAnswer_zero] at h
  exact h

/-- What the READ of one offered byte delivers to a reception in progress. -/
theorem decodes_offerByte (hmid : Midway ws) (hroom : held.length + missing ws ≤ s.intakeCapacity)
    (hb : b ≠ Config.preamble) (hsplit : held ++ [b] = body ++ if hold then [Config.esc] else [])
    (hlast : hold = false → body.getLast? ≠ some Config.esc)
    (hok : destuffBytes body (Config.capacity - ws.length) = .ok decoded) :
    Decodes (afterNow (offerByte b (collecting start held ws s))) held ws [b] body decoded hold := by
  have hneed := hmid.need_toNat
  have hmore := hmid.more
  constructor
  case intake => rfl
  case intakeLen => rfl
  case work => rfl
  case workLen => rfl
  case room => exact hneed.symm ▸ hroom
  case answer => exact readAnswer_offerByte b _ _
  case some => exact List.cons_ne_nil b []
  case bound => exact hneed.symm ▸ hmore
  case noStray => exact fun h => hb (List.mem_singleton.mp h).symm
  case split => exact hsplit
  case last => exact hlast
  case decode => exact hok

/-- What the context is after such a READ and its destuffing. -/
theorem afterDecode_offerByte (hmid : Midway ws) :
    afterDecode (afterNow (offerByte b (collecting start held ws s))) ws decoded hold =
      { polled 1 [.now (nowAnswer s), .read (missing ws) [b]] s.out s with
        state := phase ws, need := BitVec.ofNat 8 (missing ws), timerStart := start,
        intake := Memory.ofBytes (if hold then [Config.esc] else []), intakeLen := if hold then 1 else 0,
        work := Memory.ofBytes (ws ++ decoded), workLen := (ws ++ decoded).length } := by
  have hneed : (afterNow (offerByte b (collecting start held ws s))).need.toNat = missing ws := hmid.need_toNat
  rw [afterDecode, hneed, afterRead_offerByte]
  rfl

/-- A byte that neither is a preamble nor finishes the frame takes the reception further. -/
theorem meetByte_collecting (hinit : s.initialised = true) (hlive : deadlineKept 1 start s) (hmid : Midway ws)
    (hroom : held.length + missing ws ≤ s.intakeCapacity) (hb : b ≠ Config.preamble)
    (hsplit : held ++ [b] = body ++ if hold then [Config.esc] else [])
    (hlast : hold = false → body.getLast? ≠ some Config.esc)
    (hok : destuffBytes body (Config.capacity - ws.length) = .ok decoded) (hone : decoded.length ≤ 1)
    (hmid' : Midway (ws ++ decoded)) :
    meetByte b (collecting start held ws s) =
      .next (collecting start (if hold then [Config.esc] else []) (ws ++ decoded)
        (polled 1 (pollEvents (missing ws) b s) (.code .none) s)) := by
  have hpoll := pollCore_of_collected (s := offerByte b (collecting start held ws s)) (expired_collecting hlive) rfl
    (decodes_offerByte hmid hroom hb hsplit hlast hok) (fun hshort => by rw [List.length_append]; omega) hmid'
  rw [afterDecode_offerByte hmid] at hpoll
  refine (meetByte_of_poll (s := collecting start held ws s) hinit hpoll rfl).trans ?_
  cases hold <;> simp only [returnCode, collecting, polled, List.append_assoc] <;> rfl

/-- R157, R159: what aborts RX.READ_DESTUFF ends the reception with `INVALID_DATA`. -/
theorem meetByte_of_aborted (hinit : s.initialised = true) (hlive : deadlineKept 1 start s)
    (h : rxReadDestuff (afterNow (offerByte b (collecting start held ws s))) = .next (.aborted .invalidData,
      abort (afterRead (missing ws) (afterNow (offerByte b (collecting start held ws s)))))) :
    meetByte b (collecting start held ws s) = .next (returnCode .invalidData (abort (polled 1
      [.now (nowAnswer s), .read (missing ws) [b]] s.out s))) := by
  have hpoll := pollCore_of_aborted (s := offerByte b (collecting start held ws s)) (expired_collecting hlive)
    (phase_ne_pending ws) h
  rw [afterRead_offerByte] at hpoll
  exact meetByte_of_poll (s := collecting start held ws s) hinit hpoll rfl

/-- A stray preamble. -/
theorem meetByte_preamble_collecting (hinit : s.initialised = true) (hlive : deadlineKept 1 start s) (hmid : Midway ws)
    (hroom : held.length + missing ws ≤ s.intakeCapacity) :
    meetByte Config.preamble (collecting start held ws s) = .next (returnCode .invalidData (abort (polled 1
      [.now (nowAnswer s), .read (missing ws) [Config.preamble]] s.out s))) := by
  have hneed : (afterNow (offerByte Config.preamble (collecting start held ws s))).need.toNat = missing ws :=
    hmid.need_toNat
  have hread := rxReadDestuff_of_stray (s := afterNow (offerByte Config.preamble (collecting start held ws s)))
    (by rw [hneed]; exact hroom) (by rw [hneed]; exact hmid.more) (List.mem_singleton_self _)
  rw [hneed] at hread
  exact meetByte_of_aborted hinit hlive hread

/-- A byte that DESTUFF rejects after what is withheld. -/
theorem meetByte_illegal_collecting {kind : DestuffFailure} (hinit : s.initialised = true)
    (hlive : deadlineKept 1 start s) (hmid : Midway ws) (hroom : held.length + missing ws ≤ s.intakeCapacity)
    (hb : b ≠ Config.preamble) (hsplit : held ++ [b] = body ++ if hold then [Config.esc] else [])
    (hlast : hold = false → body.getLast? ≠ some Config.esc)
    (hfail : destuffBytes body (Config.capacity - ws.length) = .fail kind) :
    meetByte b (collecting start held ws s) = .next (returnCode .invalidData (abort (polled 1
      [.now (nowAnswer s), .read (missing ws) [b]] s.out s))) := by
  have hneed : (afterNow (offerByte b (collecting start held ws s))).need.toNat = missing ws := hmid.need_toNat
  have hread := rxReadDestuff_of_failure (s := afterNow (offerByte b (collecting start held ws s))) rfl rfl
    (by rw [hneed]; exact hroom) (by rw [hneed]; exact hmid.more) (List.cons_ne_nil b [])
    (fun h => hb (List.mem_singleton.mp h).symm) hsplit hlast hfail
  rw [hneed] at hread
  exact meetByte_of_aborted hinit hlive hread

end

/-! ### One symbol of a reception in progress -/

section
variable {s : State} {start : U32} {ws : List Byte}

/-- R158: an escape byte is withheld, and nothing is decoded. -/
theorem meetByte_esc_collecting (hinit : s.initialised = true) (hlive : deadlineKept 1 start s) (hmid : Midway ws)
    (hroom : missing ws ≤ s.intakeCapacity) :
    meetByte Config.esc (collecting start [] ws s) = .next (collecting start [Config.esc] ws
      (polled 1 (pollEvents (missing ws) Config.esc s) (.code .none) s)) := by
  have h := meetByte_collecting (held := []) (body := []) (decoded := []) (hold := true) hinit hlive hmid
    (by simpa using hroom) (by decide) rfl (by simp) (destuffBytes_nil _) (Nat.zero_le _) (by simpa using hmid)
  rwa [List.append_nil] at h

/-- A symbol that does not finish the frame: its byte is appended to `work`. -/
theorem meetBytes_symbol (c : Byte) (hinit : s.initialised = true) (hlive : deadlineKept (stuffByte c).length start s)
    (hmid : Midway ws) (hroom : 1 + missing ws ≤ s.intakeCapacity) (hmid' : Midway (ws ++ [c])) :
    ∃ events, (∀ v ∈ events, quiet v) ∧ meetBytes (stuffByte c) (collecting start [] ws s) =
      .next (collecting start [] (ws ++ [c]) (polled (stuffByte c).length events (.code .none) s)) := by
  obtain ⟨room, hroomWork⟩ : ∃ k, Config.capacity - ws.length = k + 1 :=
    ⟨255 - ws.length, by have := hmid.bounds.1; simp only [Config.capacity]; omega⟩
  have pair (m : Byte) (hlive : deadlineKept 2 start s) (hu : unescape m = some c) (hm : m ≠ Config.preamble)
      (hesc : m ≠ Config.esc) : ∃ events, (∀ v ∈ events, quiet v) ∧
      meetBytes [Config.esc, m] (collecting start [] ws s) =
        .next (collecting start [] (ws ++ [c]) (polled 2 events (.code .none) s)) := by
    have hfirst := meetByte_esc_collecting hinit (deadlineKept_mono hlive (by omega)) hmid (by omega)
    have hsecond := meetByte_collecting (s := polled 1 (pollEvents (missing ws) Config.esc s) (.code .none) s)
      (held := [Config.esc]) (body := [Config.esc, m]) (decoded := [c]) (hold := false) hinit (deadlineKept_polled hlive) hmid hroom hm rfl
      (fun _ => by simpa using hesc) (by rw [hroomWork, destuffBytes_pair m c [] room hu]; rfl) (Nat.le_refl _) hmid'
    rw [polled_polled] at hsecond
    refine ⟨_, ?_, (meetBytes_cons_of_next _ hfirst).trans (meetBytes_singleton hsecond)⟩
    exact List.forall_mem_append.mpr ⟨quiet_pollEvents _ _ _, quiet_pollEvents _ _ _⟩
  obtain ⟨rfl, h⟩ | ⟨rfl, h⟩ | ⟨hpre, hesc, h⟩ := stuffByte_cases c <;> rw [h] at hlive ⊢
  · exact pair Config.markA hlive rfl (by decide) (by decide)
  · exact pair Config.markB hlive (by decide) (by decide) (by decide)
  · have hone := meetByte_collecting (held := []) (body := [c]) (decoded := [c]) (hold := false) hinit hlive hmid
      (by simp only [List.length_nil]; omega) hpre rfl (fun _ => by simpa using hesc)
      (by rw [hroomWork, destuffBytes_literal c [] room hesc]; rfl) (Nat.le_refl _) hmid'
    exact ⟨_, quiet_pollEvents _ _ _, meetBytes_singleton hone⟩

/-- R128, R157: after a withheld escape byte, anything but the two markers. -/
theorem meetByte_illegal_marker {m : Byte} (hinit : s.initialised = true) (hlive : deadlineKept 1 start s)
    (hmid : Midway ws) (hroom : 1 + missing ws ≤ s.intakeCapacity) (ha : m ≠ Config.markA) (hb : m ≠ Config.markB) :
    meetByte m (collecting start [Config.esc] ws s) = .next (returnCode .invalidData (abort (polled 1
      [.now (nowAnswer s), .read (missing ws) [m]] s.out s))) := by
  by_cases hpre : m = Config.preamble
  · subst hpre
    exact meetByte_preamble_collecting hinit hlive hmid hroom
  by_cases hesc : m = Config.esc
  · subst hesc
    exact meetByte_illegal_collecting (body := [Config.esc]) (hold := true) (kind := .incomplete) hinit hlive hmid hroom
      hpre rfl (by simp) (by simp [destuffBytes])
  · exact meetByte_illegal_collecting (body := [Config.esc, m]) (hold := false) (kind := .badMarker) hinit hlive hmid
      hroom hpre rfl (fun _ => by simpa using hesc) (destuffBytes_badMarker m [] _ (unescape_eq_none ha hb))

end

/-- Settles O46: each of the three symbols is the stuffed image of its byte. -/
theorem symbolsDecodeIntoWork : Obligations.SymbolsDecodeIntoWork := by
  intro s ws hinv hs hheld htwo hcap hw i v n hi hlive
  obtain ⟨hmid, hform⟩ := hinv.eq_collecting hs hheld hw
  obtain ⟨hexec, rfl⟩ : exec i s = meetBytes (stuffByte v) s ∧ n = (stuffByte v).length := by
    obtain ⟨b, hpre, hesc, rfl, rfl, rfl⟩ | ⟨rfl, rfl, rfl⟩ | ⟨rfl, rfl, rfl⟩ := hi
    · have hliteral : stuffByte v = [v] := (if_neg hpre).trans (if_neg hesc)
      rw [hliteral]
      exact ⟨rfl, rfl⟩
    · exact ⟨rfl, rfl⟩
    · exact ⟨rfl, rfl⟩
  have hneed : s.need.toNat = missing ws := by rw [hform]; exact hmid.need_toNat
  obtain ⟨hmid', hmissing, hphase⟩ := hmid.concat (by omega) v
  obtain ⟨events, -, hmeet⟩ := meetBytes_symbol v hinv.started hlive hmid (by omega) hmid'
  rw [← hform] at hmeet
  refine ⟨_, hexec.trans hmeet, rfl, List.length_append, ?_, ?_, rfl, rfl, rfl, rfl, rfl, rfl, rfl⟩
  · rw [hneed, ← hmissing]
    exact congrArg (· + 1) hmid'.need_toNat
  · rw [hform]
    exact hphase

/-- Settles O47. -/
theorem illegalSymbolsAbort : Obligations.IllegalSymbolsAbort := by
  intro s hinv hs hheld hcap i n hi hlive
  obtain ⟨-, ws, -, -, hw, -⟩ := hinv.inRange.sequences
  obtain ⟨hmid, hform⟩ := hinv.eq_collecting hs hheld hw
  have hneed : s.need.toNat = missing ws := by rw [hform]; exact hmid.need_toNat
  obtain ⟨m, ha, hb, rfl, rfl⟩ | ⟨rfl, rfl⟩ := hi
  · have hfirst := meetByte_esc_collecting hinv.started (deadlineKept_mono hlive (by omega)) hmid (by omega)
    have hsecond := meetByte_illegal_marker (s := polled 1 (pollEvents (missing ws) Config.esc s) (.code .none) s)
      hinv.started (deadlineKept_polled hlive) hmid (by change 1 + missing ws ≤ s.intakeCapacity; omega) ha hb
    rw [← hform] at hfirst
    have hmeet := (meetBytes_cons_of_next [m] hfirst).trans (meetBytes_singleton hsecond)
    exact ⟨_, hmeet, rfl, rfl, rfl, rfl, rfl, rfl, rfl, rfl, rfl, rfl⟩
  · have hmeet := meetByte_preamble_collecting (held := []) hinv.started hlive hmid
      (by simp only [List.length_nil]; omega)
    rw [← hform] at hmeet
    exact ⟨_, meetBytes_singleton hmeet, rfl, rfl, rfl, rfl, rfl, rfl, rfl, rfl, rfl, rfl⟩

end Sys2Proof.Machine
end

section
/-! Proofs about encoded frames on the link (spec/43_frame_assembler.md R167, spec/44_transmit.md R192; log entry 13):
the preamble begins a reception, each symbol but the last takes it one byte further, and the last one delivers the
frame. -/

namespace Sys2Proof.Machine

/-- The first bytes of a legal frame are a reception in progress. -/
theorem midway_of_frame {f : Frame} {ws rest : List Byte} (hf : f.payload.length = f.size.toNat)
    (hle : f.size.toNat ≤ 252) (h : frameBytes f = ws ++ rest) (hrest : rest ≠ []) : Midway ws := by
  have hlen : f.size.toNat + 4 = ws.length + rest.length := by
    rw [← hf, ← frameBytes_length, h, List.length_append]
  have hpos := List.length_pos_of_ne_nil hrest
  by_cases hshort : ws.length < 3
  · refine ⟨fun size hsize => ?_, by rw [missing_of_short hshort]; omega⟩
    rw [List.getElem?_eq_none (by omega)] at hsize
    cases hsize
  · have hsize : ws[2]? = some f.size := by
      rw [← List.getElem?_append_left (l₂ := rest) (by omega), ← h]
      rfl
    refine ⟨fun size hsize' => ?_, by rw [missing_of_size hsize]; omega⟩
    rw [hsize] at hsize'
    cases hsize'
    exact hle

theorem handleAnswer_listed {s : State} {r : Reply} {rs : List Reply} (h : s.replies = r :: rs) :
    handleAnswer s = r := by
  rw [handleAnswer, h]

theorem deliver_of_listed_silence {f : Frame} {s : State} {r : Reply} {rs : List Reply}
    (haccepts : accepts s.ownAddress f.address = true) (hreplies : s.replies = r :: rs)
    (hsilent : nonEmptyReply r = false) : deliver f s = .next (.none, delivered f s) :=
  deliver_of_silent haccepts (by rwa [handleAnswer_listed hreplies])

theorem polled_zero (s : State) : polled 0 [] s.out s = s := by
  simp only [polled, List.drop_zero, Nat.zero_sub, Nat.add_zero, List.append_nil]

section
variable {f : Frame} {start : U32} {r : Reply} {rs : List Reply}

/-- The symbols before the last, by induction on the bytes they stand for. -/
theorem meetBytes_symbols (hf : f.payload.length = f.size.toNat) (hle : f.size.toNat ≤ 252) (cs : List Byte)
    {s : State} {ws rest : List Byte} (hinit : s.initialised = true) (hcap : 254 ≤ s.intakeCapacity)
    (hlive : deadlineKept (stuffTail cs).length start s) (h : frameBytes f = ws ++ (cs ++ rest)) (hrest : rest ≠ []) :
    ∃ events out, (∀ v ∈ events, quiet v) ∧ meetBytes (stuffTail cs) (collecting start [] ws s) =
      .next (collecting start [] (ws ++ cs) (polled (stuffTail cs).length events out s)) := by
  induction cs generalizing s ws with
  | nil =>
    refine ⟨[], s.out, by simp, ?_⟩
    rw [stuffTail_nil, List.length_nil, polled_zero, List.append_nil]
    rfl
  | cons c cs ih =>
    have hsplit : ws ++ (c :: cs ++ rest) = (ws ++ [c]) ++ (cs ++ rest) := by simp
    have hmid := midway_of_frame hf hle h (by simp)
    have hmid' := midway_of_frame hf hle (h.trans hsplit) (by simp [hrest])
    rw [stuffTail_cons, List.length_append] at hlive
    have hroom : 1 + missing ws ≤ s.intakeCapacity := by have := hmid.bounds; omega
    obtain ⟨events, hquiet, hsymbol⟩ := meetBytes_symbol c hinit (deadlineKept_mono hlive (by omega)) hmid hroom hmid'
    obtain ⟨events', out, hquiet', htail⟩ := ih (s := polled (stuffByte c).length events (.code .none) s) hinit hcap
      (deadlineKept_polled hlive) (h.trans hsplit)
    rw [polled_polled, List.append_assoc] at htail
    refine ⟨events ++ events', out, List.forall_mem_append.mpr ⟨hquiet, hquiet'⟩, ?_⟩
    rw [stuffTail_cons, List.length_append]
    exact (meetBytes_append _ _ _ _).mpr ⟨_, hsymbol, htail⟩

/-- The frame without its checksum. -/
def frameFront (f : Frame) : List Byte := f.address :: f.command :: f.size :: f.payload

theorem frameBytes_eq_front (f : Frame) : frameBytes f = frameFront f ++ [f.crc] := rfl

/-- R161, R162: the POLL that decodes the checksum delivers the frame. -/
theorem meetByte_finishing {s : State} {held body : List Byte} {b : Byte} (hwf : f.wellFormed = true)
    (htable : s.crcTable = buildTable Config.poly) (haccepts : accepts s.ownAddress f.address = true)
    (hreplies : s.replies = r :: rs) (hsilent : nonEmptyReply r = false) (hinit : s.initialised = true)
    (hlive : deadlineKept 1 start s)
    (hroom : held.length + missing (frameFront f) ≤ s.intakeCapacity) (hb : b ≠ Config.preamble)
    (hsplit : held ++ [b] = body) (hlast : body.getLast? ≠ some Config.esc)
    (hok : destuffBytes body (Config.capacity - (frameFront f).length) = .ok [f.crc]) :
    meetByte b (collecting start held (frameFront f) s) =
      .next (returnCode .none (delivered f (collecting start [] (frameBytes f)
        (polled 1 [.now (nowAnswer s), .read (missing (frameFront f)) [b]] s.out s)))) := by
  obtain ⟨hf, hle, -⟩ := (wellFormed_iff f).mp hwf
  have hmid := midway_of_frame hf hle (frameBytes_eq_front f) (by simp)
  have hdecodes := decodes_offerByte (start := start) (hold := false) hmid hroom hb (by simpa using hsplit)
    (fun _ => hlast) hok
  have hphase : phase (frameFront f) = .completeReceiving := phase_of_long (by simp [frameFront])
  have hcheck : check (offerByte b (collecting start held (frameFront f) s)).crcTable (frameBytes f) = true :=
    htable ▸ check_of_wellFormed hwf
  have hpoll := pollCore_of_frame_done (s := offerByte b (collecting start held (frameFront f) s))
    (expired_collecting hlive) hphase hdecodes hf (frameBytes_eq_front f).symm
  rw [if_pos hcheck, afterDecode_offerByte hmid, ← frameBytes_eq_front] at hpoll
  have hdeliver := hpoll.trans (deliver_of_listed_silence haccepts hreplies hsilent)
  exact meetByte_of_poll (s := collecting start held (frameFront f) s) hinit hdeliver rfl

/-- The last symbol, raw or escaped. -/
theorem meetBytes_last_symbol {s : State} (hwf : f.wellFormed = true) (htable : s.crcTable = buildTable Config.poly)
    (haccepts : accepts s.ownAddress f.address = true) (hreplies : s.replies = r :: rs)
    (hsilent : nonEmptyReply r = false) (hinit : s.initialised = true) (hcap : 254 ≤ s.intakeCapacity)
    (hlive : deadlineKept (stuffByte f.crc).length start s) :
    ∃ n events out, (∀ v ∈ events, quiet v) ∧ meetBytes (stuffByte f.crc) (collecting start [] (frameFront f) s) =
      .next (returnCode .none (delivered f (collecting start [] (frameBytes f) (polled n events out s)))) := by
  obtain ⟨hf, hle, -⟩ := (wellFormed_iff f).mp hwf
  have hmid := midway_of_frame hf hle (frameBytes_eq_front f) (by simp)
  obtain ⟨hlen, hmissing⟩ := hmid.bounds
  obtain ⟨room, hroomWork⟩ : ∃ k, Config.capacity - (frameFront f).length = k + 1 :=
    ⟨255 - (frameFront f).length, by simp only [Config.capacity]; omega⟩
  have hread (v : U32) (max : Nat) (bytes : List Byte) : ∀ x ∈ [Event.now v, .read max bytes], quiet x := by
    simp [quiet]
  have pair (m : Byte) (hlive : deadlineKept 2 start s) (hu : unescape m = some f.crc) (hm : m ≠ Config.preamble)
      (hesc : m ≠ Config.esc) :
      ∃ n events out, (∀ v ∈ events, quiet v) ∧
        meetBytes [Config.esc, m] (collecting start [] (frameFront f) s) =
          .next (returnCode .none (delivered f (collecting start [] (frameBytes f) (polled n events out s)))) := by
    have hfirst := meetByte_esc_collecting hinit (deadlineKept_mono hlive (by omega)) hmid (by omega)
    have hsecond := meetByte_finishing
      (s := polled 1 (pollEvents (missing (frameFront f)) Config.esc s) (.code .none) s) (held := [Config.esc]) (b := m)
      hwf htable haccepts hreplies hsilent hinit (deadlineKept_polled hlive)
      (by change 1 + missing (frameFront f) ≤ s.intakeCapacity; omega) hm rfl (by simpa using hesc)
      (by rw [hroomWork]; exact destuffBytes_pair m f.crc [] room hu)
    rw [polled_polled] at hsecond
    refine ⟨_, _, _, ?_, (meetBytes_cons_of_next _ hfirst).trans (meetBytes_singleton hsecond)⟩
    exact List.forall_mem_append.mpr ⟨quiet_pollEvents _ _ _, hread _ _ _⟩
  obtain ⟨hc, h⟩ | ⟨hc, h⟩ | ⟨hpre, hesc, h⟩ := stuffByte_cases f.crc <;> rw [h] at hlive ⊢
  · exact pair Config.markA hlive (by rw [hc]; rfl) (by decide) (by decide)
  · exact pair Config.markB hlive (by rw [hc]; decide) (by decide) (by decide)
  · have hone := meetByte_finishing (held := []) hwf htable haccepts hreplies hsilent hinit hlive
      (by simp only [List.length_nil]; omega) hpre rfl (by simpa using hesc)
      (by rw [hroomWork]; exact destuffBytes_literal f.crc [] room hesc)
    exact ⟨_, _, _, hread _ _ _, meetBytes_singleton hone⟩

end

/-- R153: after the preamble the reception is in progress, with nothing decoded yet. -/
theorem meetByte_preamble_begins {s : State} (hinit : s.initialised = true) (hs : s.state = .pending)
    (htimer : s.timerStart = 0) :
    meetByte Config.preamble s =
      .next (collecting (nowAnswer s) [] [] (polled 1 (pollEvents 1 Config.preamble s) (.code .none) s)) := by
  refine (meetByte_preamble_of_pending hinit hs htimer).trans ?_
  simp only [returnCode, beginFrame_eq, polled, List.append_assoc]
  rfl

/-- R167: an encoded frame, met byte by byte in `Pending` before its deadline, is delivered. -/
theorem meetBytes_encodedBytes {s : State} {f : Frame} {r : Reply} {rs : List Reply} (hinv : Invariants s)
    (hs : s.state = .pending) (hwf : f.wellFormed = true) (hcap : 254 ≤ s.intakeCapacity)
    (hlive : deadlineKept (encodedBytes f).length (nowAnswer s) s) (haccepts : accepts s.ownAddress f.address = true)
    (hreplies : s.replies = r :: rs) (hsilent : nonEmptyReply r = false) :
    ∃ n events out, (∀ v ∈ events, quiet v) ∧ meetBytes (encodedBytes f) s = .next (returnCode .none (delivered f
      (collecting (nowAnswer s) [] (frameBytes f) (polled n events out s)))) := by
  obtain ⟨hf, hle, -⟩ := (wellFormed_iff f).mp hwf
  have hbegin := meetByte_preamble_begins hinv.started hs (hinv.idle hs).1
  have htail : stuffTail (frameBytes f) = stuffTail (frameFront f) ++ stuffByte f.crc := by
    rw [frameBytes_eq_front, stuffTail_append, stuffTail_cons, stuffTail_nil, List.append_nil]
  have hlen : (encodedBytes f).length = 1 + ((stuffTail (frameFront f)).length + (stuffByte f.crc).length) := by
    rw [encodedBytes_eq, htail, List.length_cons, List.length_append, Nat.add_comm]
  rw [hlen] at hlive
  obtain ⟨events, out, hquiet, hfront⟩ := meetBytes_symbols
    (s := polled 1 (pollEvents 1 Config.preamble s) (.code .none) s) hf hle (frameFront f) (ws := []) hinv.started hcap
    (deadlineKept_mono (deadlineKept_polled hlive) (by omega)) (frameBytes_eq_front f) (List.cons_ne_nil _ _)
  rw [polled_polled, List.nil_append] at hfront
  obtain ⟨n, events', out', hquiet', hlast⟩ := meetBytes_last_symbol (start := nowAnswer s)
    (s := polled (1 + (stuffTail (frameFront f)).length) (pollEvents 1 Config.preamble s ++ events) out s) hwf
    hinv.table haccepts hreplies hsilent hinv.started hcap (deadlineKept_polled (by rwa [Nat.add_assoc]))
  rw [polled_polled] at hlast
  have hmeet := (meetBytes_cons_of_next _ hbegin).trans ((meetBytes_append _ _ _ _).mpr ⟨_, hfront, hlast⟩)
  rw [← htail, ← encodedBytes_eq] at hmeet
  refine ⟨_, _, out', ?_, hmeet⟩
  exact List.forall_mem_append.mpr ⟨List.forall_mem_append.mpr ⟨quiet_pollEvents _ _ _, hquiet⟩, hquiet'⟩

/-- The observables after the delivery: those of the POLLs before it, HANDLE, and the last POLL's code. -/
theorem trace_delivered {s : State} {f : Frame} {r : Reply} {rs : List Reply} (hreplies : s.replies = r :: rs)
    (n : Nat) (events : List Event) (out : Output) (start : U32) :
    (returnCode .none (delivered f (collecting start [] (frameBytes f) (polled n events out s)))).trace =
      s.trace ++ events ++ [.handle f.command f.payload f.size.toNat r, .returned .none] := by
  have hanswer : handleAnswer (toPending (collecting start [] (frameBytes f) (polled n events out s))) = r :=
    handleAnswer_listed hreplies
  rw [returnCode_trace, afterHandle_trace, hanswer, toPending_trace, List.append_assoc]
  rfl

/-- Settles O49. -/
theorem encodedFrameIsDelivered : Obligations.EncodedFrameIsDelivered := by
  intro s f r rs hinv hs hwf hcap hlive haccepts hreplies hsilent
  obtain ⟨n, events, out, hquiet, hmeet⟩ := meetBytes_encodedBytes hinv hs hwf hcap hlive haccepts hreplies hsilent
  obtain ⟨hf, -, -⟩ := (wellFormed_iff f).mp hwf
  refine ⟨_, events, hmeet, rfl, rfl, rfl, rfl, rfl, ?_, rfl, rfl, rfl, ?_, rfl,
    trace_delivered hreplies n events out _, hquiet⟩
  · exact (frameBytes_length f).trans (by rw [hf])
  · exact congrArg List.tail hreplies

/-- The frame that CALL builds on this hardware's table is well-formed (R87, R183). -/
theorem buildFrame_wellFormed (address command : Byte) {payload : List Byte} (h : payload.length ≤ 252) :
    (buildFrame (buildTable Config.poly) address command payload).wellFormed = true := by
  have hsize : (BitVec.ofNat 8 payload.length).toNat = payload.length := by
    rw [BitVec.toNat_ofNat]
    exact Nat.mod_eq_of_lt (by omega)
  exact (wellFormed_iff _).mpr ⟨hsize.symm, hsize.symm ▸ h, rfl⟩

/-- Settles O50: the bytes of CALL's WRITE are the encoded stream of a well-formed frame. -/
theorem callLoopbackIsDelivered : Obligations.CallLoopbackIsDelivered := by
  intro a b address command size data r rs ha hsa hle hdata htx hb hsb hcap hlive haccepts hreplies hsilent
  have hpayload : (data.take size).length = size := List.length_take_of_le hdata
  generalize hframe : buildFrame a.crcTable address command (data.take size) = f at hlive
  have hwf : f.wellFormed = true := by
    rw [← hframe, ha.table]
    exact buildFrame_wellFormed address command (by omega)
  obtain ⟨hf, -, -⟩ := (wellFormed_iff f).mp hwf
  have hfits : (encodedBytes f).length ≤ a.txCapacity := by
    have := (stuffedFrameLengthBounds a.crcTable address command (data.take size) (by omega)).2
    rw [hframe] at this
    omega
  have hcall := callCore_of_pending (address := address) (command := command) hle hdata hsa
  rw [hframe, transmit_of_fits hfits] at hcall
  have haddress : f.address = address := by rw [← hframe]; rfl
  obtain ⟨n, events, out, -, hmeet⟩ :=
    meetBytes_encodedBytes hb hsb hwf hcap hlive (haddress.symm ▸ haccepts) hreplies hsilent
  have htrace := trace_delivered (f := f) hreplies n events out (nowAnswer b)
  have hpay : f.payload = data.take size := by rw [← hframe]; rfl
  rw [← hf, hpay, hpayload, show f.command = command by rw [← hframe]; rfl] at htrace
  refine ⟨_, encodedBytes f, writeAnswer (setTx (encodedBytes f) a), _, events, publicReturn_of_next ha.started hcall,
    ?_, hmeet, htrace, rfl⟩
  rw [returnCode_trace, afterWrite_trace, setTx_trace, List.append_assoc]
  rfl

end Sys2Proof.Machine
end
